-- ==== Sys2Proof/Word.lean ====
section
/-! DEFINITION. The word and byte types, the register numbers, and the plainest conversions
(10_state R20, R21, R24, R26; 20_memory R60). -/
namespace Sys2Proof

/-- A 32-bit word: registers, addresses, instruction words (00_scope R5, R6). -/
abbrev Word := BitVec 32

/-- The smallest addressable unit (20_memory R60). -/
abbrev Byte := BitVec 8

/-- A general-purpose register number, r0 to r31 (10_state R21). -/
abbrev GReg := Fin 32

/-- A predicate register number, p0 to p7 (10_state R24). -/
abbrev PReg := Fin 8

/-- A special-purpose register number, s0 to s15 (10_state R26). -/
abbrev SReg := Fin 16

end Sys2Proof
end

