-- ==== Sys2Proof/Config.lean ====
section
/-! DEFINITION. What a particular Patmos fixes: the parameters of 00_scope R5 as one structure, and the
free values, opaque constants that nothing in Lean can evaluate. A configuration is carried in State and
never changes; every statement about a state therefore holds for every configuration. Log entries 4, 5,
6 to 10, 23. -/
namespace Sys2Proof

/-- The instruction formats of 30_encoding R129 to R147. -/
inductive Format where
  | aluR | aluI | aluL | aluM | aluC | aluCi | aluP | aluB | spcT | spcF | ldt | stt
  | stcI | stcR | cflI | cflRi | cflRs | cflRt
deriving DecidableEq, Repr

/-- The input/output devices of Table 3.3, in its order (60_exceptions R439). -/
inductive Device where
  | cpuInfo | excUnit | timer | deadline | mmu | uart | leds | keys
  /-- The example counter (60_exceptions R456). -/
  | counter
  | audio | ethMac | uart2
deriving DecidableEq, Repr

/-- Every device, in the order of Table 3.3. -/
def Device.all : List Device :=
  [.cpuInfo, .excUnit, .timer, .deadline, .mmu, .uart, .leds, .keys, .counter, .audio, .ethMac, .uart2]

/-- `DEVICES`: which devices are present, and at which offset (00_scope R5, 60_exceptions R439). CpuInfo, the exception
unit and the timer are always present; the MMU's registers are present with `Config.hasMmu`; any other device is
absent where its offset is `none`. -/
structure Devices where
  cpuInfo : Fin 16
  excUnit : Fin 16
  timer : Fin 16
  deadline : Option (Fin 16)
  mmu : Fin 16
  uart : Option (Fin 16)
  leds : Option (Fin 16)
  keys : Option (Fin 16)
  counter : Option (Fin 16)
  /-- The version of the example counter: true for the final one, which counts, false for the first, which reads 42
  (60_exceptions R456). -/
  counterRuns : Bool
  audio : Option (Fin 16)
  ethMac : Option (Fin 16)
  uart2 : Option (Fin 16)
  /-- The network-on-chip windows 0xe0000000 to 0xefffffff of the local space (20_memory R62). -/
  noc : Bool
deriving DecidableEq, Repr

/-- The parameters of 00_scope R5. Those that change only time (`BRND_TIMING`, burst timing, cache
replacement) appear only where CpuInfo shows them. -/
structure Config where
  /-- `DUAL_ISSUE` (30_encoding R121). -/
  dualIssue : Bool
  /-- `SECOND_SLOT_FORMATS` (30_encoding R126); formats R126 calls never allowed stay refused. -/
  slot2Formats : List Format
  /-- `MEM_SIZE`, bytes of external memory (20_memory R63). -/
  memSize : Nat
  /-- `ICACHE_KIND`: true for the method cache, false for a traditional instruction cache (20_memory R83, R84). -/
  methodCache : Bool
  /-- `ICACHE_SIZE` in bytes (20_memory R83). -/
  icacheSize : Nat
  /-- CpuInfo `ICache_Conf` bits 23:0, replacement and associativity (60_exceptions R440). -/
  icacheConf : BitVec 24
  /-- `DCACHE_SIZE` in bytes, shown by CpuInfo only. -/
  dcacheSize : Nat
  /-- CpuInfo `DCache_Conf` bits 23:0 (60_exceptions R440). -/
  dcacheConf : BitVec 24
  /-- `WRITE_BACK_DCACHE` (20_memory R81). -/
  writeBackDcache : Bool
  /-- `SC_SIZE` in bytes, a power of two (10_state R35). -/
  scSize : Nat
  /-- `DSPM_SIZE` in bytes (20_memory R62). -/
  dspmSize : Nat
  /-- `ISPM_SIZE` in bytes (20_memory R64). -/
  ispmSize : Nat
  /-- `MUL_DELAY` in bundles (41_multiply R222). -/
  mulDelay : Nat
  /-- `HAS_SLEEP` (60_exceptions R408). -/
  hasSleep : Bool
  /-- `HAS_MMU` (20_memory R100 to R102). -/
  hasMmu : Bool
  /-- `DEVICES`, with the offset of each device (60_exceptions R439). -/
  devices : Devices
  /-- `FREQ`: the value of CpuInfo `Freq`, and the number of cycles in a microsecond (60_exceptions R440, R444). -/
  freq : Nat
  /-- `CORE_ID` (60_exceptions R440). -/
  coreId : Word
  /-- `CORE_CNT` (60_exceptions R440). -/
  coreCnt : Word
  /-- CpuInfo `ExtMem_Conf` bits 15:8, the burst length as the register shows it; its unit is not stated
  (60_exceptions R440; log entry 42). -/
  burstLength : Byte
  /-- CpuInfo `ExtMem_Conf` bit 0: writes to external memory may be combined (60_exceptions R440). -/
  combinesWrites : Bool
  /-- `ENTRY`, the address of the first bundle (70_reset_and_hazards R471). -/
  entry : Word
  /-- `PLAIN_SPECIALS` (10_state R33). -/
  plainSpecials : Bool
  /-- `INTR_BIT_BASE`: true for 16, false for 0 (60_exceptions R405). -/
  intrBitsHigh : Bool
  /-- `USER_EXC_WRITE`: true for `fault`, false for `ignore` (60_exceptions R431). -/
  userWriteFaults : Bool
  /-- `INTR_INPUTS`: bit i is set if interrupt i, 2 to 15, is wired to a device (60_exceptions R418). -/
  intrInputs : BitVec 16
deriving DecidableEq, Repr

/-- The default set of formats of the second slot (30_encoding R126). -/
def Config.defaultSlot2 : List Format := [.aluR, .aluI, .aluC, .aluCi, .aluP, .aluB]

/-- The devices of the default configuration, at the offsets of Table 3.3: CpuInfo, exception unit, timer, UART, LEDs,
keys (60_exceptions R439). -/
def Config.defaultDevices : Devices :=
  { cpuInfo := 0, excUnit := 1, timer := 2, deadline := none, mmu := 7, uart := some 8, leds := some 9,
    keys := some 10, counter := none, counterRuns := true, audio := none, ethMac := none, uart2 := none,
    noc := false }

/-- The configuration of `State.reset`: the hardware defaults of 00_scope R5 (Table 2.16) where the spec gives
one, else the spec's own default. DESIGN CHOICE, log entries 4, 5, 23, 41: the values it does not give (`mulDelay`,
`dspmSize`, `ispmSize`, `combinesWrites`), and the points it leaves open: no sleep register (`hasSleep`, D14) and no MMU, the
method cache (`methodCache`), 80 for `freq` (the simulator's, the hardware's is board specific). DESIGN CHOICE, log
entry 42: the units in which CpuInfo shows sizes (bytes) and the burst length (`burstLength`, words). PRESUMED, log
entry 32: `intrBitsHigh`. -/
def Config.default : Config :=
  { dualIssue := true
    slot2Formats := Config.defaultSlot2
    memSize := 0x200000
    methodCache := true
    icacheSize := 4096
    icacheConf := 0x020010
    dcacheSize := 2048
    dcacheConf := 0x000001
    writeBackDcache := false
    scSize := 2048
    dspmSize := 2048
    ispmSize := 0x10000
    mulDelay := 1
    hasSleep := false
    hasMmu := false
    devices := Config.defaultDevices
    freq := 80
    coreId := 0
    coreCnt := 1
    burstLength := 4
    combinesWrites := false
    entry := 0
    plainSpecials := false
    intrBitsHigh := true
    userWriteFaults := true
    intrInputs := 0 }

/-! ### Free values

Each is applied to the step counter `ticks`, so a fresh, unconstrained value is drawn at every step. No body:
nothing in Lean can evaluate one. -/

/-- Clock cycles a step takes beyond the one it always takes (60_exceptions R444, 70_reset_and_hazards R490, R491). -/
opaque Config.extraCycles : Nat → Nat

/-- Interrupt requests of the devices wired to interrupts 2 to 15 (60_exceptions R418). -/
opaque Config.requests : Nat → BitVec 16

/-- A byte that the host of the UART (`false`) or the UART2 (`true`) sends (60_exceptions R450, R451). -/
opaque Config.uartArrival : Bool → Nat → Option Byte

/-- `TRE` as read from the UART or UART2 (60_exceptions R450). -/
opaque Config.uartReady : Bool → Nat → Bool

/-- Whether a waiting byte shows as `DAV` = 1 (60_exceptions R450: `DAV` = 1 only if a byte is waiting). -/
opaque Config.uartShown : Bool → Nat → Bool

/-- Whether a byte stored to a transmitter not known to be ready is appended (60_exceptions R450). -/
opaque Config.uartKept : Bool → Nat → Bool

/-- The word a load from the LED register returns (60_exceptions R452). -/
opaque Config.ledRead : Nat → Word

/-- The word a load from the keys register returns (60_exceptions R453). -/
opaque Config.keysRead : Nat → Word

/-- The word a load from the deadline register returns (60_exceptions R448). -/
opaque Config.deadlineRead : Nat → Word

end Sys2Proof
end

