-- ==== Sys2Proof/Syntax.lean ====
section
/-! DEFINITION. The instructions: one constructor for each row of spec/opcode_table.json, grouped by format
(30_encoding R129 to R147). The register form of a mnemonic that has two rows carries the suffix `R`. -/
namespace Sys2Proof

/-- A 4-bit predicate source operand: a predicate register, possibly inverted (10_state R25). -/
structure PredOp where
  neg : Bool
  reg : PReg
deriving DecidableEq, Repr

/-- One instruction. The first operand is the guard `Pred` (30_encoding R125); operand names as 00_scope R8. -/
inductive Instr where
  -- ALUr, register operand (30_encoding R131; 40_alu R173 to R183)
  | add (g : PredOp) (rd rs1 rs2 : GReg)
  | sub (g : PredOp) (rd rs1 rs2 : GReg)
  | xor (g : PredOp) (rd rs1 rs2 : GReg)
  | sl (g : PredOp) (rd rs1 rs2 : GReg)
  | sr (g : PredOp) (rd rs1 rs2 : GReg)
  | sra (g : PredOp) (rd rs1 rs2 : GReg)
  | or (g : PredOp) (rd rs1 rs2 : GReg)
  | and (g : PredOp) (rd rs1 rs2 : GReg)
  | nor (g : PredOp) (rd rs1 rs2 : GReg)
  | shadd (g : PredOp) (rd rs1 rs2 : GReg)
  | shadd2 (g : PredOp) (rd rs1 rs2 : GReg)
  -- ALUi, 12-bit immediate (R129; 40_alu R184 to R191)
  | addi (g : PredOp) (rd rs1 : GReg) (imm : BitVec 12)
  | subi (g : PredOp) (rd rs1 : GReg) (imm : BitVec 12)
  | xori (g : PredOp) (rd rs1 : GReg) (imm : BitVec 12)
  | sli (g : PredOp) (rd rs1 : GReg) (imm : BitVec 12)
  | sri (g : PredOp) (rd rs1 : GReg) (imm : BitVec 12)
  | srai (g : PredOp) (rd rs1 : GReg) (imm : BitVec 12)
  | ori (g : PredOp) (rd rs1 : GReg) (imm : BitVec 12)
  | andi (g : PredOp) (rd rs1 : GReg) (imm : BitVec 12)
  -- ALUl, 32-bit long immediate, two words (R130; 40_alu R192 to R202)
  | addl (g : PredOp) (rd rs1 : GReg) (imm : Word)
  | subl (g : PredOp) (rd rs1 : GReg) (imm : Word)
  | xorl (g : PredOp) (rd rs1 : GReg) (imm : Word)
  | sll (g : PredOp) (rd rs1 : GReg) (imm : Word)
  | srl (g : PredOp) (rd rs1 : GReg) (imm : Word)
  | sral (g : PredOp) (rd rs1 : GReg) (imm : Word)
  | orl (g : PredOp) (rd rs1 : GReg) (imm : Word)
  | andl (g : PredOp) (rd rs1 : GReg) (imm : Word)
  | norl (g : PredOp) (rd rs1 : GReg) (imm : Word)
  | shaddl (g : PredOp) (rd rs1 : GReg) (imm : Word)
  | shadd2l (g : PredOp) (rd rs1 : GReg) (imm : Word)
  -- ALUm, multiply (R132; 41_multiply R221, R223)
  | mul (g : PredOp) (rs1 rs2 : GReg)
  | mulu (g : PredOp) (rs1 rs2 : GReg)
  -- ALUc, compare (R133; 42_compare R233 to R239)
  | cmpeq (g : PredOp) (pd : PReg) (rs1 rs2 : GReg)
  | cmpneq (g : PredOp) (pd : PReg) (rs1 rs2 : GReg)
  | cmplt (g : PredOp) (pd : PReg) (rs1 rs2 : GReg)
  | cmple (g : PredOp) (pd : PReg) (rs1 rs2 : GReg)
  | cmpult (g : PredOp) (pd : PReg) (rs1 rs2 : GReg)
  | cmpule (g : PredOp) (pd : PReg) (rs1 rs2 : GReg)
  | btest (g : PredOp) (pd : PReg) (rs1 rs2 : GReg)
  -- ALUci, compare with 5-bit immediate (R136; 42_compare R240 to R246)
  | cmpeqi (g : PredOp) (pd : PReg) (rs1 : GReg) (imm : BitVec 5)
  | cmpneqi (g : PredOp) (pd : PReg) (rs1 : GReg) (imm : BitVec 5)
  | cmplti (g : PredOp) (pd : PReg) (rs1 : GReg) (imm : BitVec 5)
  | cmplei (g : PredOp) (pd : PReg) (rs1 : GReg) (imm : BitVec 5)
  | cmpulti (g : PredOp) (pd : PReg) (rs1 : GReg) (imm : BitVec 5)
  | cmpulei (g : PredOp) (pd : PReg) (rs1 : GReg) (imm : BitVec 5)
  | btesti (g : PredOp) (pd : PReg) (rs1 : GReg) (imm : BitVec 5)
  -- ALUp, predicate combine (R134; 43_predicate R252 to R254)
  | por (g : PredOp) (pd : PReg) (ps1 ps2 : PredOp)
  | pand (g : PredOp) (pd : PReg) (ps1 ps2 : PredOp)
  | pxor (g : PredOp) (pd : PReg) (ps1 ps2 : PredOp)
  -- ALUb, bitcopy (R135; 44_bitcopy R260)
  | bcopy (g : PredOp) (rd rs1 : GReg) (imm : BitVec 5) (ps : PredOp)
  -- SPCt, move to special (R137; 45_special_moves R266)
  | mts (g : PredOp) (sd : SReg) (rs1 : GReg)
  -- SPCf, move from special (R138; 45_special_moves R271)
  | mfs (g : PredOp) (rd : GReg) (ss : SReg)
  -- LDT, typed load (R139, R140; 46_load R285 to R304)
  | lws (g : PredOp) (rd ra : GReg) (imm : BitVec 7)
  | lwl (g : PredOp) (rd ra : GReg) (imm : BitVec 7)
  | lwc (g : PredOp) (rd ra : GReg) (imm : BitVec 7)
  | lwm (g : PredOp) (rd ra : GReg) (imm : BitVec 7)
  | lhs (g : PredOp) (rd ra : GReg) (imm : BitVec 7)
  | lhl (g : PredOp) (rd ra : GReg) (imm : BitVec 7)
  | lhc (g : PredOp) (rd ra : GReg) (imm : BitVec 7)
  | lhm (g : PredOp) (rd ra : GReg) (imm : BitVec 7)
  | lbs (g : PredOp) (rd ra : GReg) (imm : BitVec 7)
  | lbl (g : PredOp) (rd ra : GReg) (imm : BitVec 7)
  | lbc (g : PredOp) (rd ra : GReg) (imm : BitVec 7)
  | lbm (g : PredOp) (rd ra : GReg) (imm : BitVec 7)
  | lhus (g : PredOp) (rd ra : GReg) (imm : BitVec 7)
  | lhul (g : PredOp) (rd ra : GReg) (imm : BitVec 7)
  | lhuc (g : PredOp) (rd ra : GReg) (imm : BitVec 7)
  | lhum (g : PredOp) (rd ra : GReg) (imm : BitVec 7)
  | lbus (g : PredOp) (rd ra : GReg) (imm : BitVec 7)
  | lbul (g : PredOp) (rd ra : GReg) (imm : BitVec 7)
  | lbuc (g : PredOp) (rd ra : GReg) (imm : BitVec 7)
  | lbum (g : PredOp) (rd ra : GReg) (imm : BitVec 7)
  -- STT, typed store (R141, R140; 47_store R314 to R325)
  | sws (g : PredOp) (ra rs : GReg) (imm : BitVec 7)
  | swl (g : PredOp) (ra rs : GReg) (imm : BitVec 7)
  | swc (g : PredOp) (ra rs : GReg) (imm : BitVec 7)
  | swm (g : PredOp) (ra rs : GReg) (imm : BitVec 7)
  | shs (g : PredOp) (ra rs : GReg) (imm : BitVec 7)
  | shl (g : PredOp) (ra rs : GReg) (imm : BitVec 7)
  | shc (g : PredOp) (ra rs : GReg) (imm : BitVec 7)
  | shm (g : PredOp) (ra rs : GReg) (imm : BitVec 7)
  | sbs (g : PredOp) (ra rs : GReg) (imm : BitVec 7)
  | sbl (g : PredOp) (ra rs : GReg) (imm : BitVec 7)
  | sbc (g : PredOp) (ra rs : GReg) (imm : BitVec 7)
  | sbm (g : PredOp) (ra rs : GReg) (imm : BitVec 7)
  -- STCi, stack control with immediate (R142; 48_stack_control R334 to R337)
  | sres (g : PredOp) (imm : BitVec 18)
  | sens (g : PredOp) (imm : BitVec 18)
  | sfree (g : PredOp) (imm : BitVec 18)
  | sspill (g : PredOp) (imm : BitVec 18)
  -- STCr, stack control with register (R143; 48_stack_control R338, R339)
  | sensR (g : PredOp) (rs : GReg)
  | sspillR (g : PredOp) (rs : GReg)
  -- CFLi, control flow with immediate (R144; 49_control_flow R360 to R365, R380)
  | callnd (g : PredOp) (imm : BitVec 22)
  | call (g : PredOp) (imm : BitVec 22)
  | brnd (g : PredOp) (imm : BitVec 22)
  | br (g : PredOp) (imm : BitVec 22)
  | brcfnd (g : PredOp) (imm : BitVec 22)
  | brcf (g : PredOp) (imm : BitVec 22)
  | trap (g : PredOp) (imm : BitVec 22)
  -- CFLri, control flow with implicit registers (R145; 49_control_flow R366 to R369)
  | retnd (g : PredOp)
  | ret (g : PredOp)
  | xretnd (g : PredOp)
  | xret (g : PredOp)
  -- CFLrs, control flow with one register (R146; 49_control_flow R370 to R373)
  | callndR (g : PredOp) (rs : GReg)
  | callR (g : PredOp) (rs : GReg)
  | brndR (g : PredOp) (rs : GReg)
  | brR (g : PredOp) (rs : GReg)
  -- CFLrt, control flow with two registers (R147; 49_control_flow R374, R375)
  | brcfndR (g : PredOp) (rs1 rs2 : GReg)
  | brcfR (g : PredOp) (rs1 rs2 : GReg)
deriving DecidableEq, Repr

/-- What follows a bundle's first word (30_encoding R120, R121): nothing, or a second instruction. The long
immediate of an ALUl instruction is an operand of that instruction. -/
inductive Bundle where
  | one (i : Instr)
  | two (first second : Instr)
deriving DecidableEq, Repr

/-- The guard of an instruction (30_encoding R125). -/
def Instr.guard : Instr → PredOp
  | .add g _ _ _ => g
  | .sub g _ _ _ => g
  | .xor g _ _ _ => g
  | .sl g _ _ _ => g
  | .sr g _ _ _ => g
  | .sra g _ _ _ => g
  | .or g _ _ _ => g
  | .and g _ _ _ => g
  | .nor g _ _ _ => g
  | .shadd g _ _ _ => g
  | .shadd2 g _ _ _ => g
  | .addi g _ _ _ => g
  | .subi g _ _ _ => g
  | .xori g _ _ _ => g
  | .sli g _ _ _ => g
  | .sri g _ _ _ => g
  | .srai g _ _ _ => g
  | .ori g _ _ _ => g
  | .andi g _ _ _ => g
  | .addl g _ _ _ => g
  | .subl g _ _ _ => g
  | .xorl g _ _ _ => g
  | .sll g _ _ _ => g
  | .srl g _ _ _ => g
  | .sral g _ _ _ => g
  | .orl g _ _ _ => g
  | .andl g _ _ _ => g
  | .norl g _ _ _ => g
  | .shaddl g _ _ _ => g
  | .shadd2l g _ _ _ => g
  | .mul g _ _ => g
  | .mulu g _ _ => g
  | .cmpeq g _ _ _ => g
  | .cmpneq g _ _ _ => g
  | .cmplt g _ _ _ => g
  | .cmple g _ _ _ => g
  | .cmpult g _ _ _ => g
  | .cmpule g _ _ _ => g
  | .btest g _ _ _ => g
  | .cmpeqi g _ _ _ => g
  | .cmpneqi g _ _ _ => g
  | .cmplti g _ _ _ => g
  | .cmplei g _ _ _ => g
  | .cmpulti g _ _ _ => g
  | .cmpulei g _ _ _ => g
  | .btesti g _ _ _ => g
  | .por g _ _ _ => g
  | .pand g _ _ _ => g
  | .pxor g _ _ _ => g
  | .bcopy g _ _ _ _ => g
  | .mts g _ _ => g
  | .mfs g _ _ => g
  | .lws g _ _ _ => g
  | .lwl g _ _ _ => g
  | .lwc g _ _ _ => g
  | .lwm g _ _ _ => g
  | .lhs g _ _ _ => g
  | .lhl g _ _ _ => g
  | .lhc g _ _ _ => g
  | .lhm g _ _ _ => g
  | .lbs g _ _ _ => g
  | .lbl g _ _ _ => g
  | .lbc g _ _ _ => g
  | .lbm g _ _ _ => g
  | .lhus g _ _ _ => g
  | .lhul g _ _ _ => g
  | .lhuc g _ _ _ => g
  | .lhum g _ _ _ => g
  | .lbus g _ _ _ => g
  | .lbul g _ _ _ => g
  | .lbuc g _ _ _ => g
  | .lbum g _ _ _ => g
  | .sws g _ _ _ => g
  | .swl g _ _ _ => g
  | .swc g _ _ _ => g
  | .swm g _ _ _ => g
  | .shs g _ _ _ => g
  | .shl g _ _ _ => g
  | .shc g _ _ _ => g
  | .shm g _ _ _ => g
  | .sbs g _ _ _ => g
  | .sbl g _ _ _ => g
  | .sbc g _ _ _ => g
  | .sbm g _ _ _ => g
  | .sres g _ => g
  | .sens g _ => g
  | .sfree g _ => g
  | .sspill g _ => g
  | .sensR g _ => g
  | .sspillR g _ => g
  | .callnd g _ => g
  | .call g _ => g
  | .brnd g _ => g
  | .br g _ => g
  | .brcfnd g _ => g
  | .brcf g _ => g
  | .trap g _ => g
  | .retnd g => g
  | .ret g => g
  | .xretnd g => g
  | .xret g => g
  | .callndR g _ => g
  | .callR g _ => g
  | .brndR g _ => g
  | .brR g _ => g
  | .brcfndR g _ _ => g
  | .brcfR g _ _ => g

/-- The format of an instruction (30_encoding R129 to R147). -/
def Instr.format : Instr → Format
  | .add _ _ _ _ | .sub _ _ _ _ | .xor _ _ _ _ | .sl _ _ _ _ | .sr _ _ _ _ | .sra _ _ _ _ | .or _ _ _ _
  | .and _ _ _ _ | .nor _ _ _ _ | .shadd _ _ _ _ | .shadd2 _ _ _ _ => .aluR
  | .addi _ _ _ _ | .subi _ _ _ _ | .xori _ _ _ _ | .sli _ _ _ _ | .sri _ _ _ _ | .srai _ _ _ _
  | .ori _ _ _ _ | .andi _ _ _ _ => .aluI
  | .addl _ _ _ _ | .subl _ _ _ _ | .xorl _ _ _ _ | .sll _ _ _ _ | .srl _ _ _ _ | .sral _ _ _ _
  | .orl _ _ _ _ | .andl _ _ _ _ | .norl _ _ _ _ | .shaddl _ _ _ _ | .shadd2l _ _ _ _ => .aluL
  | .mul _ _ _ | .mulu _ _ _ => .aluM
  | .cmpeq _ _ _ _ | .cmpneq _ _ _ _ | .cmplt _ _ _ _ | .cmple _ _ _ _ | .cmpult _ _ _ _ | .cmpule _ _ _ _
  | .btest _ _ _ _ => .aluC
  | .cmpeqi _ _ _ _ | .cmpneqi _ _ _ _ | .cmplti _ _ _ _ | .cmplei _ _ _ _ | .cmpulti _ _ _ _
  | .cmpulei _ _ _ _ | .btesti _ _ _ _ => .aluCi
  | .por _ _ _ _ | .pand _ _ _ _ | .pxor _ _ _ _ => .aluP
  | .bcopy _ _ _ _ _ => .aluB
  | .mts _ _ _ => .spcT
  | .mfs _ _ _ => .spcF
  | .lws _ _ _ _ | .lwl _ _ _ _ | .lwc _ _ _ _ | .lwm _ _ _ _ | .lhs _ _ _ _ | .lhl _ _ _ _ | .lhc _ _ _ _
  | .lhm _ _ _ _ | .lbs _ _ _ _ | .lbl _ _ _ _ | .lbc _ _ _ _ | .lbm _ _ _ _ | .lhus _ _ _ _ | .lhul _ _ _ _
  | .lhuc _ _ _ _ | .lhum _ _ _ _ | .lbus _ _ _ _ | .lbul _ _ _ _ | .lbuc _ _ _ _ | .lbum _ _ _ _ => .ldt
  | .sws _ _ _ _ | .swl _ _ _ _ | .swc _ _ _ _ | .swm _ _ _ _ | .shs _ _ _ _ | .shl _ _ _ _ | .shc _ _ _ _
  | .shm _ _ _ _ | .sbs _ _ _ _ | .sbl _ _ _ _ | .sbc _ _ _ _ | .sbm _ _ _ _ => .stt
  | .sres _ _ | .sens _ _ | .sfree _ _ | .sspill _ _ => .stcI
  | .sensR _ _ | .sspillR _ _ => .stcR
  | .callnd _ _ | .call _ _ | .brnd _ _ | .br _ _ | .brcfnd _ _ | .brcf _ _ | .trap _ _ => .cflI
  | .retnd _ | .ret _ | .xretnd _ | .xret _ => .cflRi
  | .callndR _ _ | .callR _ _ | .brndR _ _ | .brR _ _ => .cflRs
  | .brcfndR _ _ _ | .brcfR _ _ _ => .cflRt

/-- The number of words of an instruction: 2 for the long-immediate format, 1 for every other (30_encoding R130). -/
def Instr.words (i : Instr) : Nat := if i.format = .aluL then 2 else 1

/-- The general-purpose register an instruction names as its destination (10_state R21). -/
def Instr.destReg : Instr → Option GReg
  | .add _ rd _ _ | .sub _ rd _ _ | .xor _ rd _ _ | .sl _ rd _ _ | .sr _ rd _ _ | .sra _ rd _ _
  | .or _ rd _ _ | .and _ rd _ _ | .nor _ rd _ _ | .shadd _ rd _ _ | .shadd2 _ rd _ _ => some rd
  | .addi _ rd _ _ | .subi _ rd _ _ | .xori _ rd _ _ | .sli _ rd _ _ | .sri _ rd _ _ | .srai _ rd _ _
  | .ori _ rd _ _ | .andi _ rd _ _ => some rd
  | .addl _ rd _ _ | .subl _ rd _ _ | .xorl _ rd _ _ | .sll _ rd _ _ | .srl _ rd _ _ | .sral _ rd _ _
  | .orl _ rd _ _ | .andl _ rd _ _ | .norl _ rd _ _ | .shaddl _ rd _ _ | .shadd2l _ rd _ _ => some rd
  | .mul _ _ _ | .mulu _ _ _ => none
  | .cmpeq _ _ _ _ | .cmpneq _ _ _ _ | .cmplt _ _ _ _ | .cmple _ _ _ _ | .cmpult _ _ _ _ | .cmpule _ _ _ _
  | .btest _ _ _ _ => none
  | .cmpeqi _ _ _ _ | .cmpneqi _ _ _ _ | .cmplti _ _ _ _ | .cmplei _ _ _ _ | .cmpulti _ _ _ _
  | .cmpulei _ _ _ _ | .btesti _ _ _ _ => none
  | .por _ _ _ _ | .pand _ _ _ _ | .pxor _ _ _ _ => none
  | .bcopy _ rd _ _ _ => some rd
  | .mts _ _ _ => none
  | .mfs _ rd _ => some rd
  | .lws _ rd _ _ | .lwl _ rd _ _ | .lwc _ rd _ _ | .lwm _ rd _ _ | .lhs _ rd _ _ | .lhl _ rd _ _
  | .lhc _ rd _ _ | .lhm _ rd _ _ | .lbs _ rd _ _ | .lbl _ rd _ _ | .lbc _ rd _ _ | .lbm _ rd _ _
  | .lhus _ rd _ _ | .lhul _ rd _ _ | .lhuc _ rd _ _ | .lhum _ rd _ _ | .lbus _ rd _ _ | .lbul _ rd _ _
  | .lbuc _ rd _ _ | .lbum _ rd _ _ => some rd
  | .sws _ _ _ _ | .swl _ _ _ _ | .swc _ _ _ _ | .swm _ _ _ _ | .shs _ _ _ _ | .shl _ _ _ _ | .shc _ _ _ _
  | .shm _ _ _ _ | .sbs _ _ _ _ | .sbl _ _ _ _ | .sbc _ _ _ _ | .sbm _ _ _ _ => none
  | .sres _ _ | .sens _ _ | .sfree _ _ | .sspill _ _ => none
  | .sensR _ _ | .sspillR _ _ => none
  | .callnd _ _ | .call _ _ | .brnd _ _ | .br _ _ | .brcfnd _ _ | .brcf _ _ | .trap _ _ => none
  | .retnd _ | .ret _ | .xretnd _ | .xret _ => none
  | .callndR _ _ | .callR _ _ | .brndR _ _ | .brR _ _ => none
  | .brcfndR _ _ _ | .brcfR _ _ _ => none

/-- The predicate register an instruction names as its destination (10_state R24). -/
def Instr.destPred : Instr → Option PReg
  | .add _ _ _ _ | .sub _ _ _ _ | .xor _ _ _ _ | .sl _ _ _ _ | .sr _ _ _ _ | .sra _ _ _ _ | .or _ _ _ _
  | .and _ _ _ _ | .nor _ _ _ _ | .shadd _ _ _ _ | .shadd2 _ _ _ _ => none
  | .addi _ _ _ _ | .subi _ _ _ _ | .xori _ _ _ _ | .sli _ _ _ _ | .sri _ _ _ _ | .srai _ _ _ _
  | .ori _ _ _ _ | .andi _ _ _ _ => none
  | .addl _ _ _ _ | .subl _ _ _ _ | .xorl _ _ _ _ | .sll _ _ _ _ | .srl _ _ _ _ | .sral _ _ _ _
  | .orl _ _ _ _ | .andl _ _ _ _ | .norl _ _ _ _ | .shaddl _ _ _ _ | .shadd2l _ _ _ _ => none
  | .mul _ _ _ | .mulu _ _ _ => none
  | .cmpeq _ pd _ _ | .cmpneq _ pd _ _ | .cmplt _ pd _ _ | .cmple _ pd _ _ | .cmpult _ pd _ _
  | .cmpule _ pd _ _ | .btest _ pd _ _ => some pd
  | .cmpeqi _ pd _ _ | .cmpneqi _ pd _ _ | .cmplti _ pd _ _ | .cmplei _ pd _ _ | .cmpulti _ pd _ _
  | .cmpulei _ pd _ _ | .btesti _ pd _ _ => some pd
  | .por _ pd _ _ | .pand _ pd _ _ | .pxor _ pd _ _ => some pd
  | .bcopy _ _ _ _ _ => none
  | .mts _ _ _ => none
  | .mfs _ _ _ => none
  | .lws _ _ _ _ | .lwl _ _ _ _ | .lwc _ _ _ _ | .lwm _ _ _ _ | .lhs _ _ _ _ | .lhl _ _ _ _ | .lhc _ _ _ _
  | .lhm _ _ _ _ | .lbs _ _ _ _ | .lbl _ _ _ _ | .lbc _ _ _ _ | .lbm _ _ _ _ | .lhus _ _ _ _ | .lhul _ _ _ _
  | .lhuc _ _ _ _ | .lhum _ _ _ _ | .lbus _ _ _ _ | .lbul _ _ _ _ | .lbuc _ _ _ _ | .lbum _ _ _ _ => none
  | .sws _ _ _ _ | .swl _ _ _ _ | .swc _ _ _ _ | .swm _ _ _ _ | .shs _ _ _ _ | .shl _ _ _ _ | .shc _ _ _ _
  | .shm _ _ _ _ | .sbs _ _ _ _ | .sbl _ _ _ _ | .sbc _ _ _ _ | .sbm _ _ _ _ => none
  | .sres _ _ | .sens _ _ | .sfree _ _ | .sspill _ _ => none
  | .sensR _ _ | .sspillR _ _ => none
  | .callnd _ _ | .call _ _ | .brnd _ _ | .br _ _ | .brcfnd _ _ | .brcf _ _ | .trap _ _ => none
  | .retnd _ | .ret _ | .xretnd _ | .xret _ => none
  | .callndR _ _ | .callR _ _ | .brndR _ _ | .brR _ _ => none
  | .brcfndR _ _ _ | .brcfR _ _ _ => none

/-- The special register an `mts` names as its destination (45_special_moves R266). -/
def Instr.destSpecial : Instr → Option SReg
  | .add _ _ _ _ | .sub _ _ _ _ | .xor _ _ _ _ | .sl _ _ _ _ | .sr _ _ _ _ | .sra _ _ _ _ | .or _ _ _ _
  | .and _ _ _ _ | .nor _ _ _ _ | .shadd _ _ _ _ | .shadd2 _ _ _ _ => none
  | .addi _ _ _ _ | .subi _ _ _ _ | .xori _ _ _ _ | .sli _ _ _ _ | .sri _ _ _ _ | .srai _ _ _ _
  | .ori _ _ _ _ | .andi _ _ _ _ => none
  | .addl _ _ _ _ | .subl _ _ _ _ | .xorl _ _ _ _ | .sll _ _ _ _ | .srl _ _ _ _ | .sral _ _ _ _
  | .orl _ _ _ _ | .andl _ _ _ _ | .norl _ _ _ _ | .shaddl _ _ _ _ | .shadd2l _ _ _ _ => none
  | .mul _ _ _ | .mulu _ _ _ => none
  | .cmpeq _ _ _ _ | .cmpneq _ _ _ _ | .cmplt _ _ _ _ | .cmple _ _ _ _ | .cmpult _ _ _ _ | .cmpule _ _ _ _
  | .btest _ _ _ _ => none
  | .cmpeqi _ _ _ _ | .cmpneqi _ _ _ _ | .cmplti _ _ _ _ | .cmplei _ _ _ _ | .cmpulti _ _ _ _
  | .cmpulei _ _ _ _ | .btesti _ _ _ _ => none
  | .por _ _ _ _ | .pand _ _ _ _ | .pxor _ _ _ _ => none
  | .bcopy _ _ _ _ _ => none
  | .mts _ sd _ => some sd
  | .mfs _ _ _ => none
  | .lws _ _ _ _ | .lwl _ _ _ _ | .lwc _ _ _ _ | .lwm _ _ _ _ | .lhs _ _ _ _ | .lhl _ _ _ _ | .lhc _ _ _ _
  | .lhm _ _ _ _ | .lbs _ _ _ _ | .lbl _ _ _ _ | .lbc _ _ _ _ | .lbm _ _ _ _ | .lhus _ _ _ _ | .lhul _ _ _ _
  | .lhuc _ _ _ _ | .lhum _ _ _ _ | .lbus _ _ _ _ | .lbul _ _ _ _ | .lbuc _ _ _ _ | .lbum _ _ _ _ => none
  | .sws _ _ _ _ | .swl _ _ _ _ | .swc _ _ _ _ | .swm _ _ _ _ | .shs _ _ _ _ | .shl _ _ _ _ | .shc _ _ _ _
  | .shm _ _ _ _ | .sbs _ _ _ _ | .sbl _ _ _ _ | .sbc _ _ _ _ | .sbm _ _ _ _ => none
  | .sres _ _ | .sens _ _ | .sfree _ _ | .sspill _ _ => none
  | .sensR _ _ | .sspillR _ _ => none
  | .callnd _ _ | .call _ _ | .brnd _ _ | .br _ _ | .brcfnd _ _ | .brcf _ _ | .trap _ _ => none
  | .retnd _ | .ret _ | .xretnd _ | .xret _ => none
  | .callndR _ _ | .callR _ _ | .brndR _ _ | .brR _ _ => none
  | .brcfndR _ _ _ | .brcfR _ _ _ => none

end Sys2Proof
end

