-- ==== Sys2Proof/WellFormed.lean ====
section
/-! DEFINITION. Which instructions and bundles are well formed, beyond what the operand types already say
(30_encoding R121, R126; 49_control_flow R380; 10_state R42). -/
namespace Sys2Proof

/-- What can be wrong with an instruction or a bundle. -/
inductive IllFormed where
  /-- A `trap` whose number names no vector (49_control_flow R380). -/
  | trapNumber
  /-- A two-instruction bundle on a machine with one pipeline (30_encoding R121 (4)). -/
  | singleIssue
  /-- A long-immediate instruction beside a second instruction: its second word is the immediate (30_encoding R121). -/
  | longWithSecond
  /-- A second-slot instruction of a format that may not stand there (30_encoding R126). -/
  | secondSlotFormat
  /-- A `trap` that is not alone in its bundle (49_control_flow R380). -/
  | trapNotAlone
  /-- Two instructions with one guard and one destination register or predicate (10_state R42). -/
  | sameDestination
deriving DecidableEq, Repr

/-- The formats that 30_encoding R126 never allows in the second slot. -/
def Format.firstSlotOnly : Format → Bool
  | .aluR | .aluI | .aluC | .aluCi | .aluP | .aluB => false
  | .aluL | .aluM | .spcT | .spcF | .ldt | .stt | .stcI | .stcR | .cflI | .cflRi | .cflRs | .cflRt => true

/-- May an instruction of format `f` stand in the second slot (30_encoding R126)? -/
def Config.allowsSecond (c : Config) (f : Format) : Bool :=
  !f.firstSlotOnly && c.slot2Formats.contains f

/-- Is the instruction a `trap`? -/
def Instr.isTrap : Instr → Bool
  | .trap _ _ => true
  | _ => false

/-- What is wrong with an instruction's operands, if anything. -/
def Instr.problem : Instr → Option IllFormed
  | .trap _ imm => if imm.toNat < 32 then none else some .trapNumber
  | _ => none

/-- An instruction is well formed if nothing is wrong with its operands. -/
def Instr.wellFormed (i : Instr) : Bool := i.problem.isNone

/-- Do the two instructions write one and the same register or predicate, other than r0 and p0? -/
def Instr.sharesDestination (a b : Instr) : Bool :=
  (a.destReg.isSome && a.destReg == b.destReg && a.destReg != some 0) ||
  (a.destPred.isSome && a.destPred == b.destPred && a.destPred != some 0)

/-- What is wrong with a bundle, if anything, on a machine configured as `c`. -/
def Bundle.problem (c : Config) : Bundle → Option IllFormed
  | .one i => i.problem
  | .two i j =>
    if !c.dualIssue then some .singleIssue
    else if i.format = .aluL then some .longWithSecond
    else if !c.allowsSecond j.format then some .secondSlotFormat
    else if i.isTrap then some .trapNotAlone
    else if i.guard == j.guard && i.sharesDestination j then some .sameDestination
    else i.problem

/-- A bundle is well formed if nothing is wrong with it. -/
def Bundle.wellFormed (c : Config) (b : Bundle) : Bool := (b.problem c).isNone

end Sys2Proof
end

