-- ==== Sys2Proof/Decode.lean ====
section
/-! DEFINITION. From words to instructions and back (30_encoding R120 to R150). Decoding is total and rejects by
name; the encoder writes the words of an instruction from the same tables. -/
namespace Sys2Proof

/-! ### Bits and bytes -/

/-- The bit field of `n` bits whose lowest bit is `lo`, as a number (00_scope R6). -/
def bits (w : Word) (lo n : Nat) : Nat := w.toNat / 2 ^ lo % 2 ^ n

/-- A 4-bit predicate source operand from its number: the top bit inverts (10_state R25). -/
def PredOp.ofCode (n : Nat) : PredOp := { neg := n / 8 % 2 == 1, reg := Fin.ofNat 8 n }

/-- The number of a predicate source operand (10_state R25). -/
def PredOp.code (p : PredOp) : Nat := (if p.neg then 8 else 0) + p.reg.val

/-- A word from its four bytes, the first at the lowest address and the most significant (20_memory R66). -/
def wordOfBytes (b0 b1 b2 b3 : Byte) : Word := b0 ++ b1 ++ b2 ++ b3

/-- The four bytes of a word in memory order (20_memory R66). -/
def bytesOfWord (w : Word) : List Byte :=
  [w.extractLsb' 24 8, w.extractLsb' 16 8, w.extractLsb' 8 8, w.extractLsb' 0 8]

/-! ### The fields of a word (30_encoding R124, R129 to R147) -/

/-- `Pred`, bits 30:27. -/
def guardOf (w : Word) : PredOp := .ofCode (bits w 27 4)

/-- The bundle-size flag, bit 31 (30_encoding R120). -/
def sizeFlag (w : Word) : Bool := bits w 31 1 == 1

/-- `Rd`, bits 21:17. -/
def rdOf (w : Word) : GReg := Fin.ofNat 32 (bits w 17 5)

/-- `Rs1`, `Ra`, or the `Rs` of STCr and CFLrs, bits 16:12. -/
def rs1Of (w : Word) : GReg := Fin.ofNat 32 (bits w 12 5)

/-- `Rs2`, or the `Rs` of STT, bits 11:7. -/
def rs2Of (w : Word) : GReg := Fin.ofNat 32 (bits w 7 5)

/-- `Pd`, bits 19:17. -/
def pdOf (w : Word) : PReg := Fin.ofNat 8 (bits w 17 3)

/-- `Sd` or `Ss`, bits 3:0. -/
def srOf (w : Word) : SReg := Fin.ofNat 16 (bits w 0 4)

/-- The 5-bit immediate of ALUci and ALUb, bits 11:7. -/
def imm5Of (w : Word) : BitVec 5 := BitVec.ofNat 5 (bits w 7 5)

/-- The 7-bit displacement of LDT and STT, bits 6:0. -/
def imm7Of (w : Word) : BitVec 7 := BitVec.ofNat 7 (bits w 0 7)

/-- The 12-bit immediate of ALUi, bits 11:0. -/
def imm12Of (w : Word) : BitVec 12 := BitVec.ofNat 12 (bits w 0 12)

/-- The 18-bit immediate of STCi, bits 17:0. -/
def imm18Of (w : Word) : BitVec 18 := BitVec.ofNat 18 (bits w 0 18)

/-- The 22-bit immediate of CFLi, bits 21:0. -/
def imm22Of (w : Word) : BitVec 22 := BitVec.ofNat 22 (bits w 0 22)

/-! ### Decoding -/

/-- The illegal encodings of 30_encoding R150, one name for each group of its list. -/
inductive Illegal where
  /-- An unassigned major opcode. -/
  | majorOpcode
  /-- ALU class with `Opc` 001 or 111. -/
  | aluOpcode
  /-- SPC class with `Opc` other than 010 and 011. -/
  | specialOpcode
  /-- An unused function of ALUr. -/
  | aluFunction
  /-- Major opcode 11111 with an unused function, with bits 6:4 other than 000, or with bit 31 clear. -/
  | longImmediate
  /-- An unused function of ALUm. -/
  | multiplyFunction
  /-- An unused function of ALUc or ALUci. -/
  | compareFunction
  /-- An unused function of ALUp. -/
  | predicateFunction
  /-- An unused `Type` of LDT. -/
  | loadType
  /-- An unused `Type` of STT. -/
  | storeType
  /-- STC with bits 19:18 = 10 or 11, or STCr with `Op` 00 or 10. -/
  | stackControl
  /-- CFLi `Op` 11 with `d` = 1, CFLr with bits 3:2 = 11, or an unused `Op` of CFLri, CFLrs, CFLrt. -/
  | controlFlow
deriving DecidableEq, Repr

/-- The format a word's major opcode and class bits select, if any (30_encoding R128). -/
def formatOf (w : Word) : Option Format :=
  match bits w 22 5 with
  | 0 | 1 | 2 | 3 | 4 | 5 | 6 | 7 => some .aluI
  | 8 =>
    match bits w 4 3 with
    | 0 => some .aluR
    | 2 => some .aluM
    | 3 => some .aluC
    | 4 => some .aluP
    | 5 => some .aluB
    | 6 => some .aluCi
    | _ => none
  | 9 =>
    match bits w 4 3 with
    | 2 => some .spcT
    | 3 => some .spcF
    | _ => none
  | 10 => some .ldt
  | 11 => some .stt
  | 12 =>
    match bits w 18 2 with
    | 0 => some .stcI
    | 1 => some .stcR
    | _ => none
  | 16 | 17 | 18 | 19 | 20 | 21 | 22 | 23 => some .cflI
  | 24 | 25 =>
    match bits w 2 2 with
    | 0 => some .cflRi
    | 1 => some .cflRs
    | 2 => some .cflRt
    | _ => none
  | 31 => some .aluL
  | _ => none

/-- ALUr (30_encoding R131; 40_alu R171). -/
def decodeAluR (w : Word) : Except Illegal Instr :=
  match bits w 0 4 with
  | 0 => .ok (.add (guardOf w) (rdOf w) (rs1Of w) (rs2Of w))
  | 1 => .ok (.sub (guardOf w) (rdOf w) (rs1Of w) (rs2Of w))
  | 2 => .ok (.xor (guardOf w) (rdOf w) (rs1Of w) (rs2Of w))
  | 3 => .ok (.sl (guardOf w) (rdOf w) (rs1Of w) (rs2Of w))
  | 4 => .ok (.sr (guardOf w) (rdOf w) (rs1Of w) (rs2Of w))
  | 5 => .ok (.sra (guardOf w) (rdOf w) (rs1Of w) (rs2Of w))
  | 6 => .ok (.or (guardOf w) (rdOf w) (rs1Of w) (rs2Of w))
  | 7 => .ok (.and (guardOf w) (rdOf w) (rs1Of w) (rs2Of w))
  | 11 => .ok (.nor (guardOf w) (rdOf w) (rs1Of w) (rs2Of w))
  | 12 => .ok (.shadd (guardOf w) (rdOf w) (rs1Of w) (rs2Of w))
  | 13 => .ok (.shadd2 (guardOf w) (rdOf w) (rs1Of w) (rs2Of w))
  | _ => .error .aluFunction

/-- ALUm (30_encoding R132; 41_multiply R220). -/
def decodeMultiply (w : Word) : Except Illegal Instr :=
  match bits w 0 4 with
  | 0 => .ok (.mul (guardOf w) (rs1Of w) (rs2Of w))
  | 1 => .ok (.mulu (guardOf w) (rs1Of w) (rs2Of w))
  | _ => .error .multiplyFunction

/-- ALUc (30_encoding R133; 42_compare R231). -/
def decodeCompare (w : Word) : Except Illegal Instr :=
  match bits w 0 4 with
  | 0 => .ok (.cmpeq (guardOf w) (pdOf w) (rs1Of w) (rs2Of w))
  | 1 => .ok (.cmpneq (guardOf w) (pdOf w) (rs1Of w) (rs2Of w))
  | 2 => .ok (.cmplt (guardOf w) (pdOf w) (rs1Of w) (rs2Of w))
  | 3 => .ok (.cmple (guardOf w) (pdOf w) (rs1Of w) (rs2Of w))
  | 4 => .ok (.cmpult (guardOf w) (pdOf w) (rs1Of w) (rs2Of w))
  | 5 => .ok (.cmpule (guardOf w) (pdOf w) (rs1Of w) (rs2Of w))
  | 6 => .ok (.btest (guardOf w) (pdOf w) (rs1Of w) (rs2Of w))
  | _ => .error .compareFunction

/-- ALUci (30_encoding R136; 42_compare R231). -/
def decodeCompareImm (w : Word) : Except Illegal Instr :=
  match bits w 0 4 with
  | 0 => .ok (.cmpeqi (guardOf w) (pdOf w) (rs1Of w) (imm5Of w))
  | 1 => .ok (.cmpneqi (guardOf w) (pdOf w) (rs1Of w) (imm5Of w))
  | 2 => .ok (.cmplti (guardOf w) (pdOf w) (rs1Of w) (imm5Of w))
  | 3 => .ok (.cmplei (guardOf w) (pdOf w) (rs1Of w) (imm5Of w))
  | 4 => .ok (.cmpulti (guardOf w) (pdOf w) (rs1Of w) (imm5Of w))
  | 5 => .ok (.cmpulei (guardOf w) (pdOf w) (rs1Of w) (imm5Of w))
  | 6 => .ok (.btesti (guardOf w) (pdOf w) (rs1Of w) (imm5Of w))
  | _ => .error .compareFunction

/-- ALUp (30_encoding R134; 43_predicate R250). -/
def decodePredicate (w : Word) : Except Illegal Instr :=
  match bits w 0 4 with
  | 6 => .ok (.por (guardOf w) (pdOf w) (.ofCode (bits w 12 4)) (.ofCode (bits w 7 4)))
  | 7 => .ok (.pand (guardOf w) (pdOf w) (.ofCode (bits w 12 4)) (.ofCode (bits w 7 4)))
  | 10 => .ok (.pxor (guardOf w) (pdOf w) (.ofCode (bits w 12 4)) (.ofCode (bits w 7 4)))
  | _ => .error .predicateFunction

/-- The ALU class, major opcode 01000 (30_encoding R128). ALUb holds one instruction (R135). -/
def decodeAlu (w : Word) : Except Illegal Instr :=
  match bits w 4 3 with
  | 0 => decodeAluR w
  | 2 => decodeMultiply w
  | 3 => decodeCompare w
  | 4 => decodePredicate w
  | 5 => .ok (.bcopy (guardOf w) (rdOf w) (rs1Of w) (imm5Of w) (.ofCode (bits w 0 4)))
  | 6 => decodeCompareImm w
  | _ => .error .aluOpcode

/-- The SPC class, major opcode 01001 (30_encoding R137, R138). -/
def decodeSpecial (w : Word) : Except Illegal Instr :=
  match bits w 4 3 with
  | 2 => .ok (.mts (guardOf w) (srOf w) (rs1Of w))
  | 3 => .ok (.mfs (guardOf w) (rdOf w) (srOf w))
  | _ => .error .specialOpcode

/-- LDT: `Type` is bits 11:7 (30_encoding R139, R140). -/
def decodeLoad (w : Word) : Except Illegal Instr :=
  match bits w 7 5 with
  | 0 => .ok (.lws (guardOf w) (rdOf w) (rs1Of w) (imm7Of w))
  | 1 => .ok (.lwl (guardOf w) (rdOf w) (rs1Of w) (imm7Of w))
  | 2 => .ok (.lwc (guardOf w) (rdOf w) (rs1Of w) (imm7Of w))
  | 3 => .ok (.lwm (guardOf w) (rdOf w) (rs1Of w) (imm7Of w))
  | 4 => .ok (.lhs (guardOf w) (rdOf w) (rs1Of w) (imm7Of w))
  | 5 => .ok (.lhl (guardOf w) (rdOf w) (rs1Of w) (imm7Of w))
  | 6 => .ok (.lhc (guardOf w) (rdOf w) (rs1Of w) (imm7Of w))
  | 7 => .ok (.lhm (guardOf w) (rdOf w) (rs1Of w) (imm7Of w))
  | 8 => .ok (.lbs (guardOf w) (rdOf w) (rs1Of w) (imm7Of w))
  | 9 => .ok (.lbl (guardOf w) (rdOf w) (rs1Of w) (imm7Of w))
  | 10 => .ok (.lbc (guardOf w) (rdOf w) (rs1Of w) (imm7Of w))
  | 11 => .ok (.lbm (guardOf w) (rdOf w) (rs1Of w) (imm7Of w))
  | 12 => .ok (.lhus (guardOf w) (rdOf w) (rs1Of w) (imm7Of w))
  | 13 => .ok (.lhul (guardOf w) (rdOf w) (rs1Of w) (imm7Of w))
  | 14 => .ok (.lhuc (guardOf w) (rdOf w) (rs1Of w) (imm7Of w))
  | 15 => .ok (.lhum (guardOf w) (rdOf w) (rs1Of w) (imm7Of w))
  | 16 => .ok (.lbus (guardOf w) (rdOf w) (rs1Of w) (imm7Of w))
  | 17 => .ok (.lbul (guardOf w) (rdOf w) (rs1Of w) (imm7Of w))
  | 18 => .ok (.lbuc (guardOf w) (rdOf w) (rs1Of w) (imm7Of w))
  | 19 => .ok (.lbum (guardOf w) (rdOf w) (rs1Of w) (imm7Of w))
  | _ => .error .loadType

/-- STT: `Type` is bits 21:17 (30_encoding R140, R141). -/
def decodeStore (w : Word) : Except Illegal Instr :=
  match bits w 17 5 with
  | 0 => .ok (.sws (guardOf w) (rs1Of w) (rs2Of w) (imm7Of w))
  | 1 => .ok (.swl (guardOf w) (rs1Of w) (rs2Of w) (imm7Of w))
  | 2 => .ok (.swc (guardOf w) (rs1Of w) (rs2Of w) (imm7Of w))
  | 3 => .ok (.swm (guardOf w) (rs1Of w) (rs2Of w) (imm7Of w))
  | 4 => .ok (.shs (guardOf w) (rs1Of w) (rs2Of w) (imm7Of w))
  | 5 => .ok (.shl (guardOf w) (rs1Of w) (rs2Of w) (imm7Of w))
  | 6 => .ok (.shc (guardOf w) (rs1Of w) (rs2Of w) (imm7Of w))
  | 7 => .ok (.shm (guardOf w) (rs1Of w) (rs2Of w) (imm7Of w))
  | 8 => .ok (.sbs (guardOf w) (rs1Of w) (rs2Of w) (imm7Of w))
  | 9 => .ok (.sbl (guardOf w) (rs1Of w) (rs2Of w) (imm7Of w))
  | 10 => .ok (.sbc (guardOf w) (rs1Of w) (rs2Of w) (imm7Of w))
  | 11 => .ok (.sbm (guardOf w) (rs1Of w) (rs2Of w) (imm7Of w))
  | _ => .error .storeType

/-- STC: `Op` is bits 21:20, the form bits 19:18 (30_encoding R142, R143). Selected together, bits 21:18. -/
def decodeStack (w : Word) : Except Illegal Instr :=
  match bits w 18 4 with
  | 0 => .ok (.sres (guardOf w) (imm18Of w))
  | 4 => .ok (.sens (guardOf w) (imm18Of w))
  | 8 => .ok (.sfree (guardOf w) (imm18Of w))
  | 12 => .ok (.sspill (guardOf w) (imm18Of w))
  | 5 => .ok (.sensR (guardOf w) (rs1Of w))
  | 13 => .ok (.sspillR (guardOf w) (rs1Of w))
  | _ => .error .stackControl

/-- CFLi: `Op` and `d` are bits 24:22 (30_encoding R144). -/
def decodeCflI (w : Word) : Except Illegal Instr :=
  match bits w 22 3 with
  | 0 => .ok (.callnd (guardOf w) (imm22Of w))
  | 1 => .ok (.call (guardOf w) (imm22Of w))
  | 2 => .ok (.brnd (guardOf w) (imm22Of w))
  | 3 => .ok (.br (guardOf w) (imm22Of w))
  | 4 => .ok (.brcfnd (guardOf w) (imm22Of w))
  | 5 => .ok (.brcf (guardOf w) (imm22Of w))
  | 6 => .ok (.trap (guardOf w) (imm22Of w))
  | _ => .error .controlFlow

/-- CFLr with `d` = 0: the form and `Op` are bits 3:0 (30_encoding R145 to R147). -/
def decodeCflNd (w : Word) : Except Illegal Instr :=
  match bits w 0 4 with
  | 0 => .ok (.retnd (guardOf w))
  | 1 => .ok (.xretnd (guardOf w))
  | 4 => .ok (.callndR (guardOf w) (rs1Of w))
  | 5 => .ok (.brndR (guardOf w) (rs1Of w))
  | 10 => .ok (.brcfndR (guardOf w) (rs1Of w) (rs2Of w))
  | _ => .error .controlFlow

/-- CFLr with `d` = 1 (30_encoding R145 to R147). -/
def decodeCflD (w : Word) : Except Illegal Instr :=
  match bits w 0 4 with
  | 0 => .ok (.ret (guardOf w))
  | 1 => .ok (.xret (guardOf w))
  | 4 => .ok (.callR (guardOf w) (rs1Of w))
  | 5 => .ok (.brR (guardOf w) (rs1Of w))
  | 10 => .ok (.brcfR (guardOf w) (rs1Of w) (rs2Of w))
  | _ => .error .controlFlow

/-- The function of ALUl; `long` is the bundle's second word (30_encoding R130; 40_alu R171). -/
def decodeLongFunction (w : Word) (long : Word) : Except Illegal Instr :=
  match bits w 0 4 with
  | 0 => .ok (.addl (guardOf w) (rdOf w) (rs1Of w) long)
  | 1 => .ok (.subl (guardOf w) (rdOf w) (rs1Of w) long)
  | 2 => .ok (.xorl (guardOf w) (rdOf w) (rs1Of w) long)
  | 3 => .ok (.sll (guardOf w) (rdOf w) (rs1Of w) long)
  | 4 => .ok (.srl (guardOf w) (rdOf w) (rs1Of w) long)
  | 5 => .ok (.sral (guardOf w) (rdOf w) (rs1Of w) long)
  | 6 => .ok (.orl (guardOf w) (rdOf w) (rs1Of w) long)
  | 7 => .ok (.andl (guardOf w) (rdOf w) (rs1Of w) long)
  | 11 => .ok (.norl (guardOf w) (rdOf w) (rs1Of w) long)
  | 12 => .ok (.shaddl (guardOf w) (rdOf w) (rs1Of w) long)
  | 13 => .ok (.shadd2l (guardOf w) (rdOf w) (rs1Of w) long)
  | _ => .error .longImmediate

/-- ALUl: bit 31 must be 1 and bits 6:4 must be 000 (30_encoding R128, R150). -/
def decodeLong (w long : Word) : Except Illegal Instr :=
  if sizeFlag w && bits w 4 3 == 0 then decodeLongFunction w long else .error .longImmediate

/-- The instruction a word stands for; `long` is the word after it, used by ALUl alone (30_encoding R128, R150). -/
def decode (w long : Word) : Except Illegal Instr :=
  match bits w 22 5 with
  | 0 => .ok (.addi (guardOf w) (rdOf w) (rs1Of w) (imm12Of w))
  | 1 => .ok (.subi (guardOf w) (rdOf w) (rs1Of w) (imm12Of w))
  | 2 => .ok (.xori (guardOf w) (rdOf w) (rs1Of w) (imm12Of w))
  | 3 => .ok (.sli (guardOf w) (rdOf w) (rs1Of w) (imm12Of w))
  | 4 => .ok (.sri (guardOf w) (rdOf w) (rs1Of w) (imm12Of w))
  | 5 => .ok (.srai (guardOf w) (rdOf w) (rs1Of w) (imm12Of w))
  | 6 => .ok (.ori (guardOf w) (rdOf w) (rs1Of w) (imm12Of w))
  | 7 => .ok (.andi (guardOf w) (rdOf w) (rs1Of w) (imm12Of w))
  | 8 => decodeAlu w
  | 9 => decodeSpecial w
  | 10 => decodeLoad w
  | 11 => decodeStore w
  | 12 => decodeStack w
  | 16 | 17 | 18 | 19 | 20 | 21 | 22 | 23 => decodeCflI w
  | 24 => decodeCflNd w
  | 25 => decodeCflD w
  | 31 => decodeLong w long
  | _ => .error .majorOpcode

/-- Why bytes do not give an instruction. -/
inductive DecodeError where
  /-- Fewer bytes than the instruction needs. -/
  | truncated
  /-- An illegal encoding (30_encoding R150). -/
  | illegal (why : Illegal)
deriving DecidableEq, Repr

/-- The first instruction of a list of bytes as they lie in memory, and the bytes after it (20_memory R67). -/
def decodeBytes : List Byte → Except DecodeError (Instr × List Byte)
  | b0 :: b1 :: b2 :: b3 :: rest =>
    let w := wordOfBytes b0 b1 b2 b3
    if sizeFlag w && bits w 22 5 == 31 then
      match rest with
      | c0 :: c1 :: c2 :: c3 :: rest' =>
        match decode w (wordOfBytes c0 c1 c2 c3) with
        | .ok i => .ok (i, rest')
        | .error e => .error (.illegal e)
      | _ => .error .truncated
    else
      match decode w 0 with
      | .ok i => .ok (i, rest)
      | .error e => .error (.illegal e)
  | _ => .error .truncated

/-- The bytes in memory of an instruction whose bits are `w`, numbered as spec/opcode_table.json numbers them,
bits from `nbits` on being 0: two words, each big-endian, the first at the lower address (20_memory R66, R67). -/
def tableBytes (nbits w : Nat) : List Byte :=
  bytesOfWord (BitVec.ofNat 32 (w % 2 ^ nbits)) ++ bytesOfWord (BitVec.ofNat 32 (w % 2 ^ nbits / 2 ^ 32))

/-- The instruction the decoder reads from the bits `w` (numbered as the opcode table numbers them). -/
def decodeTableWord (nbits w : Nat) : Option Instr :=
  match decodeBytes (tableBytes nbits w) with
  | .ok (i, _) => some i
  | .error _ => none

/-! ### Encoding -/

/-- A word from its guard, major opcode and the 22 bits below (30_encoding R124). Bit 31 is 0 (R122). -/
def packWord (g : PredOp) (major low : Nat) : Word :=
  BitVec.ofNat 32 (g.code * 2 ^ 27 + major * 2 ^ 22 + low)

/-- The low 22 bits of the formats with three register-sized fields: 21:17, 16:12, 11:7 and 6:0. -/
def packFields (a b c d : Nat) : Nat := a * 2 ^ 17 + b * 2 ^ 12 + c * 2 ^ 7 + d

/-- An ALU or SPC class word: `opc` is bits 6:4, `func` bits 3:0. -/
def packAlu (g : PredOp) (major a b c opc func : Nat) : Word :=
  packWord g major (packFields a b c (opc * 2 ^ 4 + func))

/-- An ALUi word (30_encoding R129). -/
def packImm (g : PredOp) (func : Nat) (rd rs1 : GReg) (imm : BitVec 12) : Word :=
  packWord g func (rd.val * 2 ^ 17 + rs1.val * 2 ^ 12 + imm.toNat)

/-- The first word of an ALUl instruction, with bit 31 set (30_encoding R130). -/
def packLong (g : PredOp) (rd rs1 : GReg) (func : Nat) : Word :=
  BitVec.ofNat 32 (2 ^ 31 + g.code * 2 ^ 27 + 31 * 2 ^ 22 + packFields rd.val rs1.val 0 func)

/-- An STCi word (30_encoding R142). -/
def packStack (g : PredOp) (op : Nat) (imm : BitVec 18) : Word :=
  packWord g 12 (op * 2 ^ 20 + imm.toNat)

/-- An STCr word (30_encoding R143). -/
def packStackReg (g : PredOp) (op : Nat) (rs : GReg) : Word :=
  packWord g 12 (op * 2 ^ 20 + 2 ^ 18 + rs.val * 2 ^ 12)

/-- A CFLi word: `opd` is `Op` and `d` together (30_encoding R144). -/
def packCfl (g : PredOp) (opd : Nat) (imm : BitVec 22) : Word :=
  packWord g (16 + opd) imm.toNat

/-- A CFLr word: `d`, the registers, and `sel` = the form and `Op`, bits 3:0 (30_encoding R145 to R147). -/
def packCflReg (g : PredOp) (d rs1 rs2 sel : Nat) : Word :=
  packWord g (24 + d) (packFields 0 rs1 rs2 sel)

/-- The words of an instruction, in memory order; unused bits are 0 (30_encoding R124, R129 to R147). -/
def encode : Instr → List Word
  | .add g rd rs1 rs2 => [packAlu g 8 rd.val rs1.val rs2.val 0 0]
  | .sub g rd rs1 rs2 => [packAlu g 8 rd.val rs1.val rs2.val 0 1]
  | .xor g rd rs1 rs2 => [packAlu g 8 rd.val rs1.val rs2.val 0 2]
  | .sl g rd rs1 rs2 => [packAlu g 8 rd.val rs1.val rs2.val 0 3]
  | .sr g rd rs1 rs2 => [packAlu g 8 rd.val rs1.val rs2.val 0 4]
  | .sra g rd rs1 rs2 => [packAlu g 8 rd.val rs1.val rs2.val 0 5]
  | .or g rd rs1 rs2 => [packAlu g 8 rd.val rs1.val rs2.val 0 6]
  | .and g rd rs1 rs2 => [packAlu g 8 rd.val rs1.val rs2.val 0 7]
  | .nor g rd rs1 rs2 => [packAlu g 8 rd.val rs1.val rs2.val 0 11]
  | .shadd g rd rs1 rs2 => [packAlu g 8 rd.val rs1.val rs2.val 0 12]
  | .shadd2 g rd rs1 rs2 => [packAlu g 8 rd.val rs1.val rs2.val 0 13]
  | .addi g rd rs1 imm => [packImm g 0 rd rs1 imm]
  | .subi g rd rs1 imm => [packImm g 1 rd rs1 imm]
  | .xori g rd rs1 imm => [packImm g 2 rd rs1 imm]
  | .sli g rd rs1 imm => [packImm g 3 rd rs1 imm]
  | .sri g rd rs1 imm => [packImm g 4 rd rs1 imm]
  | .srai g rd rs1 imm => [packImm g 5 rd rs1 imm]
  | .ori g rd rs1 imm => [packImm g 6 rd rs1 imm]
  | .andi g rd rs1 imm => [packImm g 7 rd rs1 imm]
  | .addl g rd rs1 imm => [packLong g rd rs1 0, imm]
  | .subl g rd rs1 imm => [packLong g rd rs1 1, imm]
  | .xorl g rd rs1 imm => [packLong g rd rs1 2, imm]
  | .sll g rd rs1 imm => [packLong g rd rs1 3, imm]
  | .srl g rd rs1 imm => [packLong g rd rs1 4, imm]
  | .sral g rd rs1 imm => [packLong g rd rs1 5, imm]
  | .orl g rd rs1 imm => [packLong g rd rs1 6, imm]
  | .andl g rd rs1 imm => [packLong g rd rs1 7, imm]
  | .norl g rd rs1 imm => [packLong g rd rs1 11, imm]
  | .shaddl g rd rs1 imm => [packLong g rd rs1 12, imm]
  | .shadd2l g rd rs1 imm => [packLong g rd rs1 13, imm]
  | .mul g rs1 rs2 => [packAlu g 8 0 rs1.val rs2.val 2 0]
  | .mulu g rs1 rs2 => [packAlu g 8 0 rs1.val rs2.val 2 1]
  | .cmpeq g pd rs1 rs2 => [packAlu g 8 pd.val rs1.val rs2.val 3 0]
  | .cmpneq g pd rs1 rs2 => [packAlu g 8 pd.val rs1.val rs2.val 3 1]
  | .cmplt g pd rs1 rs2 => [packAlu g 8 pd.val rs1.val rs2.val 3 2]
  | .cmple g pd rs1 rs2 => [packAlu g 8 pd.val rs1.val rs2.val 3 3]
  | .cmpult g pd rs1 rs2 => [packAlu g 8 pd.val rs1.val rs2.val 3 4]
  | .cmpule g pd rs1 rs2 => [packAlu g 8 pd.val rs1.val rs2.val 3 5]
  | .btest g pd rs1 rs2 => [packAlu g 8 pd.val rs1.val rs2.val 3 6]
  | .cmpeqi g pd rs1 imm => [packAlu g 8 pd.val rs1.val imm.toNat 6 0]
  | .cmpneqi g pd rs1 imm => [packAlu g 8 pd.val rs1.val imm.toNat 6 1]
  | .cmplti g pd rs1 imm => [packAlu g 8 pd.val rs1.val imm.toNat 6 2]
  | .cmplei g pd rs1 imm => [packAlu g 8 pd.val rs1.val imm.toNat 6 3]
  | .cmpulti g pd rs1 imm => [packAlu g 8 pd.val rs1.val imm.toNat 6 4]
  | .cmpulei g pd rs1 imm => [packAlu g 8 pd.val rs1.val imm.toNat 6 5]
  | .btesti g pd rs1 imm => [packAlu g 8 pd.val rs1.val imm.toNat 6 6]
  | .por g pd ps1 ps2 => [packAlu g 8 pd.val ps1.code ps2.code 4 6]
  | .pand g pd ps1 ps2 => [packAlu g 8 pd.val ps1.code ps2.code 4 7]
  | .pxor g pd ps1 ps2 => [packAlu g 8 pd.val ps1.code ps2.code 4 10]
  | .bcopy g rd rs1 imm ps => [packAlu g 8 rd.val rs1.val imm.toNat 5 ps.code]
  | .mts g sd rs1 => [packAlu g 9 0 rs1.val 0 2 sd.val]
  | .mfs g rd ss => [packAlu g 9 rd.val 0 0 3 ss.val]
  | .lws g rd ra imm => [packWord g 10 (packFields rd.val ra.val 0 imm.toNat)]
  | .lwl g rd ra imm => [packWord g 10 (packFields rd.val ra.val 1 imm.toNat)]
  | .lwc g rd ra imm => [packWord g 10 (packFields rd.val ra.val 2 imm.toNat)]
  | .lwm g rd ra imm => [packWord g 10 (packFields rd.val ra.val 3 imm.toNat)]
  | .lhs g rd ra imm => [packWord g 10 (packFields rd.val ra.val 4 imm.toNat)]
  | .lhl g rd ra imm => [packWord g 10 (packFields rd.val ra.val 5 imm.toNat)]
  | .lhc g rd ra imm => [packWord g 10 (packFields rd.val ra.val 6 imm.toNat)]
  | .lhm g rd ra imm => [packWord g 10 (packFields rd.val ra.val 7 imm.toNat)]
  | .lbs g rd ra imm => [packWord g 10 (packFields rd.val ra.val 8 imm.toNat)]
  | .lbl g rd ra imm => [packWord g 10 (packFields rd.val ra.val 9 imm.toNat)]
  | .lbc g rd ra imm => [packWord g 10 (packFields rd.val ra.val 10 imm.toNat)]
  | .lbm g rd ra imm => [packWord g 10 (packFields rd.val ra.val 11 imm.toNat)]
  | .lhus g rd ra imm => [packWord g 10 (packFields rd.val ra.val 12 imm.toNat)]
  | .lhul g rd ra imm => [packWord g 10 (packFields rd.val ra.val 13 imm.toNat)]
  | .lhuc g rd ra imm => [packWord g 10 (packFields rd.val ra.val 14 imm.toNat)]
  | .lhum g rd ra imm => [packWord g 10 (packFields rd.val ra.val 15 imm.toNat)]
  | .lbus g rd ra imm => [packWord g 10 (packFields rd.val ra.val 16 imm.toNat)]
  | .lbul g rd ra imm => [packWord g 10 (packFields rd.val ra.val 17 imm.toNat)]
  | .lbuc g rd ra imm => [packWord g 10 (packFields rd.val ra.val 18 imm.toNat)]
  | .lbum g rd ra imm => [packWord g 10 (packFields rd.val ra.val 19 imm.toNat)]
  | .sws g ra rs imm => [packWord g 11 (packFields 0 ra.val rs.val imm.toNat)]
  | .swl g ra rs imm => [packWord g 11 (packFields 1 ra.val rs.val imm.toNat)]
  | .swc g ra rs imm => [packWord g 11 (packFields 2 ra.val rs.val imm.toNat)]
  | .swm g ra rs imm => [packWord g 11 (packFields 3 ra.val rs.val imm.toNat)]
  | .shs g ra rs imm => [packWord g 11 (packFields 4 ra.val rs.val imm.toNat)]
  | .shl g ra rs imm => [packWord g 11 (packFields 5 ra.val rs.val imm.toNat)]
  | .shc g ra rs imm => [packWord g 11 (packFields 6 ra.val rs.val imm.toNat)]
  | .shm g ra rs imm => [packWord g 11 (packFields 7 ra.val rs.val imm.toNat)]
  | .sbs g ra rs imm => [packWord g 11 (packFields 8 ra.val rs.val imm.toNat)]
  | .sbl g ra rs imm => [packWord g 11 (packFields 9 ra.val rs.val imm.toNat)]
  | .sbc g ra rs imm => [packWord g 11 (packFields 10 ra.val rs.val imm.toNat)]
  | .sbm g ra rs imm => [packWord g 11 (packFields 11 ra.val rs.val imm.toNat)]
  | .sres g imm => [packStack g 0 imm]
  | .sens g imm => [packStack g 1 imm]
  | .sfree g imm => [packStack g 2 imm]
  | .sspill g imm => [packStack g 3 imm]
  | .sensR g rs => [packStackReg g 1 rs]
  | .sspillR g rs => [packStackReg g 3 rs]
  | .callnd g imm => [packCfl g 0 imm]
  | .call g imm => [packCfl g 1 imm]
  | .brnd g imm => [packCfl g 2 imm]
  | .br g imm => [packCfl g 3 imm]
  | .brcfnd g imm => [packCfl g 4 imm]
  | .brcf g imm => [packCfl g 5 imm]
  | .retnd g => [packCflReg g 0 0 0 0]
  | .ret g => [packCflReg g 1 0 0 0]
  | .xretnd g => [packCflReg g 0 0 0 1]
  | .xret g => [packCflReg g 1 0 0 1]
  | .callndR g rs => [packCflReg g 0 rs.val 0 4]
  | .callR g rs => [packCflReg g 1 rs.val 0 4]
  | .brndR g rs => [packCflReg g 0 rs.val 0 5]
  | .brR g rs => [packCflReg g 1 rs.val 0 5]
  | .brcfndR g rs1 rs2 => [packCflReg g 0 rs1.val rs2.val 10]
  | .brcfR g rs1 rs2 => [packCflReg g 1 rs1.val rs2.val 10]
  | .trap g imm => [packCfl g 6 imm]

/-- The bytes of an instruction as they lie in memory (20_memory R67). -/
def encodeBytes (i : Instr) : List Byte := (encode i).flatMap bytesOfWord

end Sys2Proof
end

