-- ==== Sys2Proof/Machine/State.lean ====
section
/-! DEFINITION. The state of one Patmos core and its devices as plain data (10_state R20), the reasons a step can
stop, and the state after reset (10_state R44, 70_reset_and_hazards R471). The named accesses are in Ops.lean. -/
namespace Sys2Proof.Machine

/-- The one reason the machine stops as the spec describes it. -/
inductive Fault where
  /-- A store to the first version of the example counter, which never answers, so that the core hangs for ever
  (60_exceptions R456, 20_memory R72). Raised by `storeIo`. Safe: the spec says the hardware stops too. -/
  | deviceHang
deriving DecidableEq, Repr

/-- The situations to which the spec gives no next state: every constructor but the first stands for a `refuse` of
a rule (00_scope R7). All are safe: the model stops where the hardware may go on. -/
inductive Refusal where
  /-- An instruction that has no meaning yet; raised by an arm of `exec` only. Safe. -/
  | notModelled (mnemonic : String)
  /-- A read or write of a register in its load delay slot (46_load R282). Raised by every reading or writing
  instruction. Safe. -/
  | loadDelay
  /-- Two enabled writers of one register or predicate in a bundle (10_state R42). Raised by `step`. Safe. -/
  | twoWriters
  /-- A second-slot instruction of a format that may not stand there (30_encoding R126). Raised by `step`. Safe. -/
  | secondSlotFormat
  /-- A two-instruction bundle on a machine with one pipeline (30_encoding R121). Raised by `step`. Safe. -/
  | singleIssue
  /-- `mts` or `mfs` of an unnamed special register (10_state R33). Safe. -/
  | unnamedSpecial
  /-- `mts` or `mfs` of `sl` or `sh` while a multiply is in flight (45_special_moves R268). Safe. -/
  | multiplyInFlight
  /-- An enabled control-flow instruction in a delay slot (49_control_flow R356). Safe. -/
  | controlInDelaySlot
  /-- A fault in a delay slot (49_control_flow R356). Safe. -/
  | faultInDelaySlot
  /-- `mts` or `mfs` of return registers in the delay slots of the transfer that uses them (49_control_flow R355,
  R367, R369). Safe. -/
  | returnRegisterInDelaySlot
  /-- An exception-unit access in the delay slots of `xret` (49_control_flow R369). Safe. -/
  | exceptionUnitInDelaySlot
  /-- A load or store whose address is not naturally aligned (20_memory R68). Safe. -/
  | misaligned
  /-- `ss`, `st` not multiples of 4, or an occupancy above `SC_SIZE` (48_stack_control R331). Safe. -/
  | stackPointers
  /-- A stack-cache access outside the valid window (20_memory R73). Safe. -/
  | stackWindow
  /-- A stack-control operand above the cache size or the occupancy, or not a multiple of 4
  (48_stack_control R334 to R339). Safe. -/
  | stackSize
  /-- An `sfree` that wraps `st` past 2^32 (48_stack_control R336). Safe. -/
  | stackWrap
  /-- A spill or fill that touches an unmapped, protected or missing address (48_stack_control R333). Safe. -/
  | spillFillAddress
  /-- A cached or uncached access to an address inside the stack-cache window (70_reset_and_hazards R488 c). Safe. -/
  | stackAlias
  /-- An instruction fetch or cache fill from an unmapped code address (20_memory R77). Safe. -/
  | unmappedCode
  /-- A transfer to an address that is not a multiple of 4 (20_memory R69). Safe. -/
  | misalignedTarget
  /-- Leaving the current code block other than by a cache-filling transfer (20_memory R83). Safe. -/
  | outsideBlock
  /-- A size word that is zero, no multiple of 4 or above the cache size (20_memory R83). Safe. -/
  | badSizeWord
  /-- A fetch of code that a store changed, without what makes the store visible (20_memory R85). Safe. -/
  | staleCode
  /-- An access that could see a stale cached copy (20_memory R81). Safe. -/
  | staleData
  /-- A global address at or above `MEM_SIZE`, or a scratchpad address at or above its size (20_memory R77). Safe. -/
  | beyondMemory
  /-- A local load from the instruction scratchpad (20_memory R62). Safe. -/
  | instructionScratchpadRead
  /-- A half-word or byte access to an I/O register (20_memory R65). Safe. -/
  | subWordIo
  /-- An address in a present device's window that no rule assigns (60_exceptions R439). Safe. -/
  | unassignedRegister
  /-- A load from a register that cannot be read, or a store to one that cannot be written (60_exceptions R407 to
  R409, R440, R450, R453). Safe. -/
  | registerAccess
  /-- A timer access out of its protocol (60_exceptions R445, R446). Safe. -/
  | timerProtocol
  /-- A load from a UART's receive buffer not known to hold a byte (60_exceptions R450). Safe. -/
  | uartProtocol
  /-- An access to a present device the spec does not describe: audio, EthMac, network-on-chip (60_exceptions R454,
  R455, R459). Safe. -/
  | undescribedDevice
  /-- `btest` with a register bit index of 32 or more (42_compare R239). Safe. -/
  | bitIndex
  /-- `trap` with a number of 32 or more (49_control_flow R380). Safe. -/
  | trapNumber
  /-- `trap` in a 64-bit bundle (49_control_flow R380). Safe. -/
  | trapNotAlone
deriving DecidableEq, Repr

/-- A memory: the bytes that are not 0, in order of address; an unlisted byte reads 0 (log entry 2). -/
abbrev Memory := List Host.Cell

/-- The canonical form: addresses strictly rising, no listed byte 0. -/
abbrev Memory.wf (m : Memory) : Prop := m.Pairwise (fun c d => c.1 < d.1) ∧ ∀ c ∈ m, c.2 ≠ 0

/-- The special-purpose registers that have storage (10_state R26 to R33); `s0` is a view of the predicates. -/
structure Specials where
  /-- s2, low half of a product (10_state R29). -/
  sl : Word
  /-- s3, high half of a product (10_state R29). -/
  sh : Word
  /-- s5, stack spill pointer (10_state R30). -/
  ss : Word
  /-- s6, stack top pointer (10_state R30). -/
  st : Word
  /-- s7, return base (10_state R31). -/
  srb : Word
  /-- s8, return offset (10_state R31). -/
  sro : Word
  /-- s9, exception return base (10_state R32). -/
  sxb : Word
  /-- s10, exception return offset (10_state R32). -/
  sxo : Word
  /-- s1, unnamed (10_state R33). -/
  s1 : Word
  /-- s4, unnamed (10_state R33). -/
  s4 : Word
  /-- s11, unnamed (10_state R33). -/
  s11 : Word
  /-- s12, unnamed (10_state R33). -/
  s12 : Word
  /-- s13, unnamed (10_state R33). -/
  s13 : Word
  /-- s14, unnamed (10_state R33). -/
  s14 : Word
  /-- s15, unnamed (10_state R33). -/
  s15 : Word
deriving DecidableEq, Repr

/-- Which instruction started a pending transfer (10_state R36, 49_control_flow R352). -/
inductive TransferKind where
  | call | br | brcf | ret | xret
deriving DecidableEq, Repr

/-- A pending control transfer (10_state R36). -/
structure Pending where
  /-- Delay-slot bundles still to execute. -/
  remaining : Nat
  target : Word
  /-- The block entered at the transfer; not used by `br`. -/
  base : Word
  kind : TransferKind
deriving DecidableEq, Repr

/-- The exception unit (60_exceptions R403 to R410) and the local-mode bit (20_memory R82). -/
structure ExcUnit where
  status : Word
  mask : Word
  pend : Word
  source : Word
  vec : Vector Word 32
  localMode : Bool
deriving DecidableEq, Repr

/-- The MMU's segment registers (20_memory R100). -/
structure Mmu where
  segBase : Vector Word 8
  segConf : Vector Word 8
deriving DecidableEq, Repr

/-- The memories other than the stack cache's own (20_memory R60 to R64, 60_exceptions R441). -/
structure Memories where
  /-- External memory, by physical address. -/
  gm : Memory
  /-- Data scratchpad, by local address. -/
  dspm : Memory
  /-- Instruction scratchpad, by offset from 0x10000. -/
  ispm : Memory
  /-- Boot instruction ROM, by code address. -/
  bootRom : Memory
  /-- Boot data ROM, by offset from 0xf0008000. -/
  bootData : Memory
deriving DecidableEq, Repr

/-- Which bytes were written in a way that a cache may not show (20_memory R81, R85); the model's own, log entry 14.
A byte is marked when it does not read 0. -/
structure Marks where
  /-- Bytes of `gm` last written past the data cache since its last invalidate. -/
  dcStale : Memory
  /-- With a write-back data cache: bytes of `gm` a cached store wrote, perhaps to the cache only. -/
  dcDirty : Memory
  /-- Bytes of `gm` stored and not yet visible to a fetch: 1 stored, 2 stored and instruction cache invalidated
  since, 3 stored through a write-back cache. -/
  icStale : Memory
  /-- Bytes of the instruction scratchpad stored since the last cache-filling transfer. -/
  ispmStale : Memory
deriving DecidableEq, Repr

/-- The two counters of the timer (60_exceptions R443). -/
inductive TimerCounter where
  | cycles | usecs
deriving DecidableEq, Repr

/-- The timer (60_exceptions R443 to R446). -/
structure Timer where
  cycles : BitVec 64
  usecs : BitVec 64
  /-- Cycles since `usecs` last advanced; the model's own, log entry 7. -/
  usecPhase : Nat
  /-- The high word latched by a read of a low word. -/
  latch : Word
  /-- The counter whose low word was the last timer register read. -/
  latchOf : Option TimerCounter
  /-- The low word of an interrupt time stored but not yet in effect. -/
  heldLow : Word
  /-- The counter whose low word was the last timer register stored. -/
  heldOf : Option TimerCounter
  /-- The armed cycle interrupt time. -/
  cycleTime : Option (BitVec 64)
  /-- The armed microsecond interrupt time. -/
  usecTime : Option (BitVec 64)
deriving DecidableEq, Repr

/-- A UART as its program and its host see it (60_exceptions R450, R451). -/
structure Uart where
  /-- The bytes sent, oldest first. -/
  tx : List Byte
  /-- The bytes received and not yet read, oldest first. -/
  rx : List Byte
  /-- `TRE` = 1 has been read since the last transmit store, or there was none. -/
  readySeen : Bool
  /-- `DAV` = 1 has been read since the last receive load. -/
  dataSeen : Bool
deriving DecidableEq, Repr

/-- The input/output devices with state (60_exceptions R439). -/
structure Io where
  timer : Timer
  /-- The deadline down-counter (60_exceptions R448). -/
  deadline : Word
  /-- The example counter (60_exceptions R456). -/
  counter : Word
  uart : Uart
  uart2 : Uart
  /-- The words stored to the LED register, oldest first (60_exceptions R452). -/
  leds : List Word
deriving DecidableEq, Repr

/-- The state of the machine (10_state R20). -/
structure State where
  /-- The configuration, which nothing changes (log entry 4). -/
  cfg : Config
  /-- r0 to r31; entry 0 is never read (10_state R21). -/
  regs : Vector Word 32
  /-- p0 to p7; entry 0 is never read (10_state R24). -/
  preds : Vector Bool 8
  sp : Specials
  /-- The address of the bundle being executed, or next to execute (10_state R22). -/
  pc : Word
  /-- The method base (10_state R22). -/
  base : Word
  /-- The address of the bundle that follows in sequence, the `next` of 49_control_flow R352; log entry 13. -/
  nextPc : Word
  /-- The size in bytes of the block entered last, where bounds apply (20_memory R83, 49_control_flow R353, R354). -/
  blockSize : Option Word
  /-- The pending control transfer (10_state R36). -/
  pending : Option Pending
  /-- The register a load of the previous bundle wrote (10_state R37). -/
  loadShadow : Option GReg
  /-- Bundles until `sl` and `sh` may be used (10_state R38). -/
  mulShadow : Nat
  /-- The bundle in execution has entered an exception handler; the model's own, log entry 13. -/
  excEntered : Bool
  /-- The core sleeps (60_exceptions R408). -/
  sleeping : Bool
  exc : ExcUnit
  mmu : Mmu
  /-- The stack-cache memory, by index (10_state R35). -/
  sc : Memory
  mem : Memories
  marks : Marks
  io : Io
  /-- The number of steps taken, the index of the next free values; the model's own, log entry 6. -/
  ticks : Nat
deriving DecidableEq, Repr

/-- A UART after reset: nothing sent or received, no transmit store made yet (60_exceptions R450). -/
def Uart.reset : Uart := { tx := [], rx := [], readySeen := true, dataSeen := false }

/-- The machine configured as `c`, right after reset (10_state R44, 70_reset_and_hazards R471). `status`, `mask`,
`pend`, `pc`, `base` and everything pending are as R471 says; DESIGN CHOICE, log entries 1 and 2: what the spec
leaves unspecified is 0. -/
def State.resetOf (c : Config) : State :=
  { cfg := c
    regs := Vector.replicate 32 0
    preds := Vector.replicate 8 false
    sp := { sl := 0, sh := 0, ss := 0, st := 0, srb := 0, sro := 0, sxb := 0, sxo := 0,
            s1 := 0, s4 := 0, s11 := 0, s12 := 0, s13 := 0, s14 := 0, s15 := 0 }
    pc := c.entry
    base := c.entry
    nextPc := c.entry + 4
    blockSize := none
    pending := none
    loadShadow := none
    mulShadow := 0
    excEntered := false
    sleeping := false
    exc := { status := 2, mask := 0, pend := 0, source := 0, vec := Vector.replicate 32 0, localMode := false }
    mmu := { segBase := Vector.replicate 8 0, segConf := Vector.replicate 8 0 }
    sc := []
    mem := { gm := [], dspm := [], ispm := [], bootRom := [], bootData := [] }
    marks := { dcStale := [], dcDirty := [], icStale := [], ispmStale := [] }
    io :=
      { timer := { cycles := 0, usecs := 0, usecPhase := 0, latch := 0, latchOf := none, heldLow := 0,
                   heldOf := none, cycleTime := none, usecTime := none }
        deadline := 0
        counter := 0
        uart := Uart.reset
        uart2 := Uart.reset
        leds := [] }
    ticks := 0 }

/-- The machine right after reset, in the default configuration. -/
def State.reset : State := State.resetOf Config.default

end Sys2Proof.Machine
end

