-- ==== Sys2Proof/Machine/Memory.lean ====
section
/-! DEFINITION. A memory as a sorted list of the bytes that are not 0: reading, writing, and words from bytes in
big-endian order (20_memory R60, R66, R70). -/
namespace Sys2Proof.Machine

/-- The byte at an address; a byte not listed reads 0 (log entry 2). -/
def Memory.read : Memory → Nat → Byte
  | [], _ => 0
  | (k, v) :: rest, a => if k = a then v else Memory.read rest a

/-- The memory without an entry for an address. -/
def Memory.erase (m : Memory) (a : Nat) : Memory := m.filter (fun c => c.1 != a)

/-- The memory with an entry put in its place by address. -/
def Memory.insert (a : Nat) (b : Byte) : Memory → Memory
  | [] => [(a, b)]
  | (k, v) :: rest => if a < k then (a, b) :: (k, v) :: rest else (k, v) :: Memory.insert a b rest

/-- The memory after a byte is written; writing 0 removes the entry, which keeps the canonical form. -/
def Memory.write (m : Memory) (a : Nat) (b : Byte) : Memory :=
  if b = 0 then m.erase a else Memory.insert a b (m.erase a)

/-- The memory after the bytes `bs` are written at the addresses `as`, in order. -/
def Memory.writeAll : Memory → List Nat → List Byte → Memory
  | m, a :: as, b :: bs => Memory.writeAll (m.write a b) as bs
  | m, _, _ => m

/-- The memory after one and the same byte is written at each address. -/
def Memory.fill : Memory → List Nat → Byte → Memory
  | m, a :: as, b => Memory.fill (m.write a b) as b
  | m, [], _ => m

/-- Is some byte at the addresses not 0? -/
def Memory.anySet (m : Memory) (as : List Nat) : Bool := as.any (fun a => m.read a != 0)

/-- The `n` addresses from `a` up. -/
def span (a n : Nat) : List Nat := (List.range n).map (a + ·)

/-- The number whose bytes, most significant first, are `bs` (20_memory R66). -/
def wordOf (bs : List Byte) : Word := bs.foldl (fun w b => (w <<< 8) ||| b.setWidth 32) 0

/-- The low `n` bytes of a word, most significant first (20_memory R66, R70). -/
def bytesOf (n : Nat) (w : Word) : List Byte := (List.range n).map (fun i => w.extractLsb' (8 * (n - 1 - i)) 8)

/-- The value of the bytes at the addresses, the first the most significant. -/
def Memory.readWord (m : Memory) (as : List Nat) : Word := wordOf (as.map m.read)

/-- The memory after the low bytes of a value are written at the addresses, the most significant at the first. -/
def Memory.writeWord (m : Memory) (as : List Nat) (v : Word) : Memory := m.writeAll as (bytesOf as.length v)

end Sys2Proof.Machine
end

