-- ==== Sys2Proof/Machine/Ops.lean ====
section
/-! DEFINITION. The named operations over registers, predicates and code memory: guards, load delay slots, the MMU,
entering a code block, transfers of control, taking an exception and returning from one. -/
namespace Sys2Proof.Machine

/-- What a step, or the meaning of an instruction, ends in. -/
abbrev Result := Host.Outcome State Fault Refusal

/-! ### Registers and predicates -/

/-- `R[r]`; r0 reads 0 (10_state R21). -/
def State.reg (s : State) (r : GReg) : Word := if r = 0 then 0 else s.regs[r]

/-- `R[r] <- v`; a write to r0 is discarded (10_state R21). -/
def State.setReg (s : State) (r : GReg) (v : Word) : State :=
  if r = 0 then s else { s with regs := s.regs.set r.val v r.isLt }

/-- `P[p]`; p0 reads 1 (10_state R24). -/
def State.pred (s : State) (p : PReg) : Bool := if p = 0 then true else s.preds[p]

/-- `P[p] <- b`; a write to p0 is discarded (10_state R24). -/
def State.setPred (s : State) (p : PReg) (b : Bool) : State :=
  if p = 0 then s else { s with preds := s.preds.set p.val b p.isLt }

/-- `ps(x)`, the value of a predicate source operand (10_state R25). -/
def State.ps (s : State) (x : PredOp) : Bool := Bool.xor (s.pred x.reg) x.neg

/-- Is the register in its load delay slot (10_state R37)? r0 never is (46_load R282). -/
def State.shadowed (s : State) (r : GReg) : Bool := r != 0 && s.loadShadow == some r

/-- The mode: true in user mode, `status` bit 1 = 0 (60_exceptions R430). -/
def State.userMode (s : State) : Bool := !s.exc.status.getLsbD 1

/-! ### Shapes of a meaning -/

/-- Every meaning stands under its guard: if it is false the instruction changes nothing (30_encoding R125). -/
def State.guarded (s : State) (g : PredOp) (k : Result) : Result := if s.ps g then k else .next s

/-- Go on if a requirement holds, else refuse. -/
def need (ok : Bool) (why : Refusal) (k : Result) : Result := if ok then k else .refused why

/-- Read a source register; in its load delay slot the read is refused (46_load R282). -/
def State.use (s : State) (r : GReg) (k : Word → Result) : Result :=
  need (!s.shadowed r) .loadDelay (k (s.reg r))

/-- Write a destination register; in its load delay slot the write is refused (46_load R282). -/
def State.put (s : State) (r : GReg) (v : Word) : Result :=
  need (!s.shadowed r) .loadDelay (.next (s.setReg r v))

/-! ### The MMU (20_memory R100 to R102) -/

/-- The kinds of access that the MMU tells apart. -/
inductive AccessKind where
  | read | write | execute
deriving DecidableEq, Repr

/-- The segment of a virtual address, bits 31:29. -/
def segmentOf (va : Word) : Fin 8 := Fin.ofNat 8 (va.toNat / 2 ^ 29)

/-- Does a segment's configuration give the permission an access needs? -/
def permitted (conf : Word) : AccessKind → Bool
  | .read => conf.getLsbD 31
  | .write => conf.getLsbD 30
  | .execute => conf.getLsbD 29

/-- The physical address of a global address, `none` where the MMU raises `IllegalMemoryAccess` (20_memory R101). -/
def State.translate (s : State) (k : AccessKind) (va : Word) : Option Word :=
  if s.cfg.hasMmu then
    let conf := s.mmu.segConf[segmentOf va]
    let off := va.toNat % 2 ^ 29
    if s.userMode && !(decide (off < conf.toNat % 2 ^ 29) && permitted conf k) then none
    else some (s.mmu.segBase[segmentOf va] + BitVec.ofNat 32 off)
  else some va

/-! ### Code memory (20_memory R64, R83 to R85) -/

/-- What a read of a code word gives. -/
inductive CodeRead where
  | word (w : Word)
  | fault
  | refuse (why : Refusal)
deriving DecidableEq, Repr

/-- The first address of external memory in the code map (20_memory R64). -/
abbrev externalCode : Nat := 0x20000

/-- May a fetch not see the stored byte (20_memory R85)? A cache fill sees what was stored before the last
invalidate of the instruction cache. -/
def staleMark (fill : Bool) (mark : Byte) : Bool := mark != 0 && !(fill && mark == 2)

/-- Where words of code stand in external memory. -/
inductive CodePlaces where
  /-- The physical address of each word. -/
  | places (pas : List Nat)
  | fault
  | refuse (why : Refusal)
deriving DecidableEq, Repr

/-- The physical places of the words of code at global addresses, each word translated and mapped by itself
(20_memory R63, R77, R101, R102); the first that has none decides. -/
def State.codePlaces (s : State) : List Word → CodePlaces
  | [] => .places []
  | a :: as =>
    match s.translate .execute a with
    | none => .fault
    | some pa =>
      if 0x80000000 ≤ pa.toNat || s.cfg.memSize < pa.toNat + 4 then .refuse .unmappedCode
      else
        match State.codePlaces s as with
        | .places pas => .places (pa.toNat :: pas)
        | other => other

/-- The word of external memory at a global address, read as code (20_memory R63, R77, R85, R102); `fill` says that a
cache fill reads it. -/
def State.externalWord (s : State) (fill : Bool) (a : Word) : CodeRead :=
  match s.codePlaces [a] with
  | .fault => .fault
  | .refuse why => .refuse why
  | .places pas =>
    let bytes := pas.flatMap (span · 4)
    if bytes.any (fun b => staleMark fill (s.marks.icStale.read b)) then .refuse .staleCode
    else .word (s.mem.gm.readWord bytes)

/-- The word at a code address, read by a fetch (20_memory R64, R77, R85, R102). -/
def State.codeWord (s : State) (a : Word) : CodeRead :=
  if a.toNat < 0x10000 then .word (s.mem.bootRom.readWord (span a.toNat 4))
  else if a.toNat < externalCode then
    let off := a.toNat - 0x10000
    if s.cfg.ispmSize < off + 4 then .refuse .unmappedCode
    else if s.marks.ispmStale.anySet (span off 4) then .refuse .staleCode
    else .word (s.mem.ispm.readWord (span off 4))
  else s.externalWord false a

/-- The size word of the block at `b`, `MemRead(gm, b - 4, 4)`, checked (20_memory R83 a, 49_control_flow R354). It is
global memory also where `b - 4` is below the external part of the code map. -/
def State.blockSizeAt (s : State) (b : Word) : CodeRead :=
  if b.toNat % 4 ≠ 0 then .refuse .misalignedTarget
  else
    match s.externalWord true (b - 4) with
    | .word n =>
      if n.toNat = 0 || n.toNat % 4 ≠ 0 || s.cfg.icacheSize < n.toNat then .refuse .badSizeWord else .word n
    | other => other

/-- The addresses of the words of the block of `n` bytes at `b`, all of which a cache fill reads (20_memory R83; log
entry 18). -/
def blockWords (b n : Word) : List Word := (List.range (n.toNat / 4)).map (fun i => b + BitVec.ofNat 32 (4 * i))

/-- Why the code address `a` may not be reached without a cache-filling transfer, if so (20_memory R83 b,
49_control_flow R353). In the boot ROM and the instruction scratchpad there are no bounds, and any address of these may
be reached. DESIGN CHOICE, log entry 15: reaching external memory from them needs a cache-filling transfer. A block not
entered has no bounds yet; `step` enters it before it runs a bundle (`State.settle`). -/
def State.leavesBlock (s : State) (a : Word) : Option Refusal :=
  if !s.cfg.methodCache then none
  else
    match s.blockSize with
    | some n => if (a - s.base).toNat < n.toNat then none else some .outsideBlock
    | none =>
      if a.toNat < externalCode || externalCode ≤ s.base.toNat then none else some .outsideBlock

/-- A fetch of one instruction word: inside the current block, and readable. -/
def State.fetchWord (s : State) (a : Word) : CodeRead :=
  match s.leavesBlock a with
  | some why => .refuse why
  | none => s.codeWord a

/-- What entering a code block gives. -/
inductive Entry where
  | entered (s : State)
  | fault
  | refuse (why : Refusal)
deriving DecidableEq, Repr

/-- The marks of stored code after a cache fill that reads the words at physical addresses `pas`: the bytes it reads
are visible from then on (20_memory R85 a, c). -/
def Marks.afterFill (m : Marks) (pas : List Nat) : Marks :=
  { m with icStale := m.icStale.filter
             (fun c => !(c.2 == 2 && pas.any (fun pa => decide (pa ≤ c.1) && decide (c.1 < pa + 4))))
           ispmStale := [] }

/-- The marks of stored code after a cache-filling transfer that loads no block (20_memory R85 c); with a
traditional cache everything invalidated is read afresh (log entry 29). -/
def Marks.afterTransfer (m : Marks) (methodCache : Bool) : Marks :=
  { m with icStale := if methodCache then m.icStale else m.icStale.filter (fun c => c.2 != 2)
           ispmStale := [] }

/-- Is `a` an address of the code map (20_memory R64, R77)? A translation that faults is left to the fetch. -/
def State.codeMapped (s : State) (a : Word) : Bool :=
  if a.toNat < 0x10000 then true
  else if a.toNat < externalCode then decide (a.toNat - 0x10000 + 4 ≤ s.cfg.ispmSize)
  else
    match s.codePlaces [a] with
    | .refuse _ => false
    | _ => true

/-- Enter the code block at base `b`, to go on at `t` in it (49_control_flow R353, R354). DESIGN CHOICE, log entry 15:
from a base in the boot ROM or the instruction scratchpad, for which the spec gives no bounds, a target in external
memory is refused under the method cache. -/
def State.enterBlock (s : State) (b t : Word) : Entry :=
  if t.toNat % 4 ≠ 0 then .refuse .misalignedTarget
  else if s.cfg.methodCache && decide (externalCode ≤ b.toNat) then
    match s.blockSizeAt b with
    | .fault => .fault
    | .refuse why => .refuse why
    | .word n =>
      match s.codePlaces (blockWords b n) with
      | .fault => .fault
      | .refuse why => .refuse why
      | .places pas =>
        if (t - b).toNat < n.toNat then
          .entered { s with base := b, blockSize := some n, marks := s.marks.afterFill pas }
        else .refuse .outsideBlock
  else if s.cfg.methodCache && decide (externalCode ≤ t.toNat) then .refuse .outsideBlock
  else if !s.codeMapped t then .refuse .unmappedCode
  else
    .entered { s with base := b, blockSize := none, marks := s.marks.afterTransfer s.cfg.methodCache }

/-- Has the block at `base` not been entered, though code from there runs in bounds? So it is only after a reset with
`ENTRY` in external memory (70_reset_and_hazards R471; log entry 15). -/
def State.unentered (s : State) : Bool :=
  s.cfg.methodCache && s.blockSize.isNone && decide (externalCode ≤ s.base.toNat)

/-- The first fetch after reset enters the block at `base`, as a cache-filling transfer does; any other finds it entered
(20_memory R83 a, 49_control_flow R354). -/
def State.settle (s : State) : Entry := if s.unentered then s.enterBlock s.base s.pc else .entered s

/-! ### Exceptions (60_exceptions R420 to R422) -/

/-- Exception entry: `n` is the exception number, `ret` the return address (60_exceptions R420). The handler's first
bundle is the next to execute; the vector is entered like a called block. Log entry 21: a vector that nothing has
written holds its reset value. -/
def State.takeException (s : State) (n : Fin 32) (ret : Word) : Result :=
  let v := s.exc.vec[n]
  let saved : State :=
    { s with sp := { s.sp with sxb := s.base, sxo := ret - s.base }
             exc := { s.exc with status := (s.exc.status <<< 2) ||| 2, source := BitVec.ofNat 32 n.val }
             loadShadow := none
             excEntered := true }
  match saved.enterBlock v v with
  | .entered t => .next { t with pc := v }
  | .fault => .refused .unmappedCode
  | .refuse why => .refused why

/-- `raise`: a fault with number `n`, precise at the bundle (60_exceptions R414, R421); in a delay slot it is
refused (49_control_flow R356). Applied to the state before the bundle, so that none of its writes take effect. -/
def State.raise (s : State) (n : Fin 32) : Result :=
  need s.pending.isNone .faultInDelaySlot (s.takeException n s.pc)

/-- `IllegalOperation`, exception 0 (60_exceptions R412). -/
def State.illegalOperation (s : State) : Result := s.raise 0

/-- `IllegalMemoryAccess`, exception 1 (60_exceptions R413). -/
def State.illegalAccess (s : State) : Result := s.raise 1

/-- The effect of returning from an exception on `status`: a logical shift right by two (60_exceptions R404, R422). -/
def State.restoreStatus (s : State) : State :=
  { s with exc := { s.exc with status := s.exc.status >>> 2 } }

/-- The taking of interrupt `i`: exception 16 + i, returning to the bundle not executed; its `pend` bit, number
`bit`, is cleared, and sleep ends (60_exceptions R406, R408, R416, R420, R421). -/
def State.takeInterrupt (s : State) (i : Fin 16) (bit : Nat) : Result :=
  ({ s with exc := { s.exc with pend := s.exc.pend &&& ~~~(1#32 <<< bit) }, sleeping := false } : State).takeException
    (Fin.ofNat 32 (16 + i.val)) s.pc

/-! ### Transfers of control (49_control_flow R352 to R356) -/

/-- The return information of a call is written: the caller's base, and the offset of `ret` (49_control_flow R355). -/
def State.link (s : State) (ret : Word) : State :=
  { s with sp := { s.sp with srb := s.base, sro := ret - s.base } }

/-- A non-delayed cache-filling transfer from `s`; `s'` is `s` with what the instruction writes besides. A fault of
the fill is the instruction's own (60_exceptions R413 b). -/
def State.transferNow (s s' : State) (b t : Word) : Result :=
  need s.pending.isNone .controlInDelaySlot
    (match s'.enterBlock b t with
     | .entered u => .next { u with nextPc := t }
     | .fault => s.illegalAccess
     | .refuse why => .refused why)

/-- A delayed transfer: recorded as pending, `n` delay-slot bundles follow (10_state R36). -/
def State.transferLater (s : State) (n : Nat) (kind : TransferKind) (b t : Word) : Result :=
  need s.pending.isNone .controlInDelaySlot
    (need (t.toNat % 4 == 0) .misalignedTarget
      (.next { s with pending := some { remaining := n, target := t, base := b, kind := kind } }))

/-- A local branch must stay in the current block (20_memory R83 b). -/
def State.inBlock (s : State) (t : Word) (k : Result) : Result :=
  match s.leavesBlock t with
  | some why => .refused why
  | none => k

/-- A non-delayed local branch (49_control_flow R362, R372). -/
def State.branchNow (s : State) (t : Word) : Result :=
  need s.pending.isNone .controlInDelaySlot
    (need (t.toNat % 4 == 0) .misalignedTarget
      (s.inBlock t (.next { s with nextPc := t })))

/-- A delayed local branch (49_control_flow R363, R373). -/
def State.branchLater (s : State) (t : Word) : Result :=
  s.inBlock t (s.transferLater 2 .br s.base t)

/-- The moment of transfer of a delayed instruction: what it writes then, and its cache fill
(49_control_flow R352 `complete`, R355, R369). -/
def State.complete (s : State) (p : Pending) : Entry :=
  match p.kind with
  | .br => .entered s
  | .call => (s.link s.nextPc).enterBlock p.base p.target
  | .brcf | .ret => s.enterBlock p.base p.target
  | .xret => s.restoreStatus.enterBlock p.base p.target

end Sys2Proof.Machine
end

