-- ==== Sys2Proof/Machine/Parameters.lean ====
section
/-! DEFINITION. What a configuration decides: the registers of CpuInfo, which device stands at which offset, the bits of the
interrupts (60_exceptions R405, R418, R439, R440). -/
namespace Sys2Proof

/-- The bit of `mask` and `pend` that belongs to interrupt `i` (60_exceptions R405). -/
def Config.intrBit (c : Config) (i : Nat) : Nat := if c.intrBitsHigh then 16 + i else i

/-- The interrupts 2 to 15 that a device may request: those the platform wires (60_exceptions R418). -/
def Config.wired (c : Config) : BitVec 16 := c.intrInputs &&& 0xfffc

/-- `ICache_Conf`: the type is 1 for a method cache, 2 for a traditional cache (60_exceptions R440). -/
def Config.icacheConfWord (c : Config) : Word := (if c.methodCache then 1#8 else 2#8) ++ c.icacheConf

/-- `DCache_Conf`: 0 for write-back, 1 for write-through (60_exceptions R440). -/
def Config.dcacheConfWord (c : Config) : Word := (if c.writeBackDcache then 0#8 else 1#8) ++ c.dcacheConf

/-- `ExtMem_Conf`: burst length in bits 15:8, bits 7:0 say whether writes may be combined (60_exceptions R440). -/
def Config.extMemConfWord (c : Config) : Word :=
  (0#16 ++ c.burstLength) ++ (if c.combinesWrites then 1#8 else 0#8)

/-- The CpuInfo register at an offset (Table 3.4 in 60_exceptions R440). DESIGN CHOICE, log entry 42: the size registers
show bytes, the unit of the parameters of 00_scope R5; R440 states no unit. -/
def Config.cpuInfo (c : Config) : Nat → Option Word
  | 0x00 => some c.coreId
  | 0x04 => some (BitVec.ofNat 32 c.freq)
  | 0x08 => some c.coreCnt
  | 0x0c => some (if c.dualIssue then 2 else 1)
  | 0x10 => some (BitVec.ofNat 32 c.memSize)
  | 0x14 => some c.extMemConfWord
  | 0x18 => some (BitVec.ofNat 32 c.icacheSize)
  | 0x1c => some c.icacheConfWord
  | 0x20 => some (BitVec.ofNat 32 c.dcacheSize)
  | 0x24 => some c.dcacheConfWord
  | 0x28 => some (BitVec.ofNat 32 c.scSize)
  | 0x2c => some 0
  | 0x30 => some (BitVec.ofNat 32 c.ispmSize)
  | 0x34 => some (BitVec.ofNat 32 c.dspmSize)
  | _ => none

/-- The offset at which a device stands, `none` if it is absent (60_exceptions R439). -/
def Config.offsetOf (c : Config) : Device → Option (Fin 16)
  | .cpuInfo => some c.devices.cpuInfo
  | .excUnit => some c.devices.excUnit
  | .timer => some c.devices.timer
  | .deadline => c.devices.deadline
  | .mmu => if c.hasMmu then some c.devices.mmu else none
  | .uart => c.devices.uart
  | .leds => c.devices.leds
  | .keys => c.devices.keys
  | .counter => c.devices.counter
  | .audio => c.devices.audio
  | .ethMac => c.devices.ethMac
  | .uart2 => c.devices.uart2

/-- The device at offset `k`, `none` if no present device stands there (60_exceptions R439). DESIGN CHOICE, log entry
43: where a configuration puts two devices at one offset, the earlier in Table 3.3 answers. -/
def Config.deviceAt (c : Config) (k : Fin 16) : Option Device := Device.all.find? (fun d => c.offsetOf d == some k)

end Sys2Proof
end

