-- ==== Sys2Proof/Machine/Time.lean ====
section
/-! DEFINITION. The passing of time: the timer's counters and its interrupts, the deadline and example counters, what
arrives from outside (60_exceptions R418, R443 to R456). How long a step takes is a free value (log entry 6). -/
namespace Sys2Proof.Machine

/-- Does a counter at `old` that advances by `c` reach the armed time `t` (60_exceptions R446)? A time already
passed is reached only after the counter wraps. -/
def reaches (old t : BitVec 64) (c : Nat) : Bool :=
  let d := (t - old).toNat
  decide ((if d = 0 then 2 ^ 64 else d) ≤ c)

/-- Has the armed time, if any, been reached? -/
def fires (old : BitVec 64) (c : Nat) : Option (BitVec 64) → Bool
  | none => false
  | some t => reaches old t c

/-- The microseconds that end within `c` cycles (60_exceptions R444: every `FREQ` cycles). -/
def Timer.usecsIn (t : Timer) (freq c : Nat) : Nat := (t.usecPhase + c) / freq

/-- The timer after `c` clock cycles; a time that fires is disarmed (60_exceptions R444, R446). -/
def Timer.advance (t : Timer) (freq c : Nat) : Timer :=
  { t with
      cycles := t.cycles + BitVec.ofNat 64 c
      usecs := t.usecs + BitVec.ofNat 64 (t.usecsIn freq c)
      usecPhase := (t.usecPhase + c) % freq
      cycleTime := if fires t.cycles c t.cycleTime then none else t.cycleTime
      usecTime := if fires t.usecs (t.usecsIn freq c) t.usecTime then none else t.usecTime }

/-- `pend` with the flag of interrupt `i` set if a request was made (60_exceptions R406). -/
def State.request (s : State) (i : Nat) (made : Bool) : State :=
  if made then { s with exc := { s.exc with pend := s.exc.pend ||| (1#32 <<< s.cfg.intrBit i) } } else s

/-- `c` clock cycles pass: the counters count, and the timer requests its interrupts 0 and 1 (60_exceptions R443 to
R448, R456). -/
def State.passTime (s : State) (c : Nat) : State :=
  let t := s.io.timer
  let counted : State :=
    { s with
        io := { s.io with
                  timer := t.advance s.cfg.freq c
                  deadline := s.io.deadline - BitVec.ofNat 32 (min c s.io.deadline.toNat)
                  counter := s.io.counter + BitVec.ofNat 32 c } }
  (counted.request 0 (fires t.cycles c t.cycleTime)).request 1
    (fires t.usecs (t.usecsIn s.cfg.freq c) t.usecTime)

/-- The requests that arrive from outside in this step: free values on the wired inputs (60_exceptions R418). -/
def State.outsideRequests (s : State) : State :=
  if s.cfg.wired = 0 then s
  else
    { s with exc := { s.exc with
        pend := s.exc.pend |||
          ((Config.requests s.ticks &&& s.cfg.wired).setWidth 32 <<< s.cfg.intrBit 0) } }

/-- A UART after this step's arrival, if any. -/
def Uart.arrive (u : Uart) (port : Bool) (tick : Nat) : Uart :=
  match Config.uartArrival port tick with
  | none => u
  | some b => { u with rx := u.rx ++ [b] }

/-- The bytes that the hosts of the UARTs send in this step: free values (60_exceptions R450, R451). -/
def State.uartArrivals (s : State) : State :=
  { s with
      io := { s.io with
                uart := if s.cfg.devices.uart.isSome then s.io.uart.arrive false s.ticks else s.io.uart
                uart2 := if s.cfg.devices.uart2.isSome then s.io.uart2.arrive true s.ticks else s.io.uart2 } }

/-- The end of a step: at least one clock cycle passes, and what comes from outside arrives, after the step's own
store to `pend` (60_exceptions R406, R444). -/
def State.tick (s : State) : State :=
  let t := ((s.passTime (1 + Config.extraCycles s.ticks)).outsideRequests).uartArrivals
  { t with ticks := s.ticks + 1 }

end Sys2Proof.Machine
end

