-- ==== Sys2Proof/Machine/Devices.lean ====
section
/-! DEFINITION. The input/output devices: what a word load or store at a register does (60_exceptions R403 to R410,
R439 to R456; 20_memory R100). An offset is the address's low 16 bits. -/
namespace Sys2Proof.Machine

/-- What a load from memory or a device gives. -/
inductive Load where
  | value (v : Word) (s : State)
  | fault
  | refuse (why : Refusal)
deriving DecidableEq, Repr

/-- What a store to memory or a device gives. -/
inductive Store where
  | done (s : State)
  | fault
  | hang
  | refuse (why : Refusal)
deriving DecidableEq, Repr

/-! ### CpuInfo and boot data ROM (60_exceptions R440, R441) -/

/-- A load from the CpuInfo device: its registers, and the boot data ROM from offset 0x8000 to 0x8fff. -/
def State.loadCpuInfo (s : State) (off : Nat) : Load :=
  if 0x8000 ≤ off && off < 0x9000 then .value (s.mem.bootData.readWord (span (off - 0x8000) 4)) s
  else
    match s.cfg.cpuInfo off with
    | some v => .value v s
    | none => .refuse .unassignedRegister

/-! ### The exception unit (60_exceptions R403 to R410) -/

/-- Is a transfer by `xret` pending? Then the exception unit may not be accessed (49_control_flow R369). -/
def State.xretPending (s : State) : Bool :=
  match s.pending with
  | some p => p.kind == .xret
  | none => false

/-- The vector at an offset of the exception unit, 0x80 + 4n (60_exceptions R410). -/
def vecIndex (off : Nat) : Option (Fin 32) :=
  if 0x80 ≤ off && off < 0x100 then some (Fin.ofNat 32 ((off - 0x80) / 4)) else none

/-- A load from the exception unit, allowed in both modes (60_exceptions R403). -/
def State.loadExc (s : State) (off : Nat) : Load :=
  if s.xretPending && decide (off < 0x100) then .refuse .exceptionUnitInDelaySlot
  else
    match vecIndex off with
    | some n => .value s.exc.vec[n] s
    | none =>
      match off with
      | 0x00 => .value s.exc.status s
      | 0x04 => .value s.exc.mask s
      | 0x08 => .value s.exc.pend s
      | 0x0c => .value s.exc.source s
      | 0x10 => .refuse .registerAccess
      | 0x14 => .refuse .registerAccess
      | _ => .refuse .unassignedRegister

/-- The data cache is invalidated: later cached loads read memory afresh; with a write-back cache the bytes perhaps
written to the cache only stay unreadable that way (20_memory R86; log entry 17). -/
def Marks.invalidateData (m : Marks) : Marks := { m with dcStale := m.dcDirty }

/-- The instruction cache is invalidated: a later cache fill sees what was stored before (20_memory R85 a). -/
def Marks.invalidateCode (m : Marks) : Marks :=
  { m with icStale := m.icStale.map (fun c => (c.1, if c.2 = 1 then 2 else c.2)) }

/-- A store to `cachectrl` (60_exceptions R409). -/
def State.cacheControl (s : State) (v : Word) : State :=
  let m := if v.getLsbD 0 then s.marks.invalidateData else s.marks
  { s with marks := if v.getLsbD 1 then m.invalidateCode else m
           exc := { s.exc with localMode := Bool.xor s.exc.localMode (v.getLsbD 31) } }

/-- A user-mode store to the exception unit or the MMU: a fault, or ignored (60_exceptions R431). -/
def State.userStore (s : State) : Store := if s.cfg.userWriteFaults then .fault else .done s

/-- A store to the exception unit (60_exceptions R403 to R410, R431). -/
def State.storeExc (s : State) (off : Nat) (v : Word) : Store :=
  if s.xretPending && decide (off < 0x100) then .refuse .exceptionUnitInDelaySlot
  else if s.userMode && decide (off < 0x100) then s.userStore
  else
    match vecIndex off with
    | some n => .done { s with exc := { s.exc with vec := s.exc.vec.set n.val v n.isLt } }
    | none =>
      match off with
      | 0x00 => .done { s with exc := { s.exc with status := v } }
      | 0x04 => .done { s with exc := { s.exc with mask := v } }
      | 0x08 => .done { s with exc := { s.exc with pend := v } }
      | 0x0c => .refuse .registerAccess
      | 0x10 => .done (if s.cfg.hasSleep then { s with sleeping := true } else s)
      | 0x14 => .done (s.cacheControl v)
      | _ => .refuse .unassignedRegister

/-! ### The timer (60_exceptions R443 to R446) -/

/-- A counter's value. -/
def Timer.counter (t : Timer) : TimerCounter → BitVec 64
  | .cycles => t.cycles
  | .usecs => t.usecs

/-- The state with another timer. -/
def State.withTimer (s : State) (t : Timer) : State := { s with io := { s.io with timer := t } }

/-- A load of a counter's low word latches its high word (60_exceptions R445). -/
def State.loadTimerLow (s : State) (k : TimerCounter) : Load :=
  let x := s.io.timer.counter k
  .value (x.setWidth 32)
    (s.withTimer { s.io.timer with latch := (x >>> 32).setWidth 32, latchOf := some k })

/-- A load of a counter's high word gives the latch; defined only directly after the low word (60_exceptions R445). -/
def State.loadTimerHigh (s : State) (k : TimerCounter) : Load :=
  if s.io.timer.latchOf = some k then
    .value s.io.timer.latch (s.withTimer { s.io.timer with latchOf := none })
  else .refuse .timerProtocol

/-- A load from the timer (60_exceptions R443). -/
def State.loadTimer (s : State) (off : Nat) : Load :=
  match off with
  | 0x0 => s.loadTimerHigh .cycles
  | 0x4 => s.loadTimerLow .cycles
  | 0x8 => s.loadTimerHigh .usecs
  | 0xc => s.loadTimerLow .usecs
  | _ => .refuse .unassignedRegister

/-- A store of the low word of an interrupt time is held (60_exceptions R446). A store to the timer between the two
reads of a counter breaks that pair (70_reset_and_hazards R488 d). -/
def State.storeTimerLow (s : State) (k : TimerCounter) (v : Word) : Store :=
  .done (s.withTimer { s.io.timer with heldLow := v, heldOf := some k, latchOf := none })

/-- The timer with an interrupt time armed. -/
def Timer.arm (t : Timer) (k : TimerCounter) (x : BitVec 64) : Timer :=
  match k with
  | .cycles => { t with cycleTime := some x }
  | .usecs => { t with usecTime := some x }

/-- A store of the high word arms the interrupt time; defined only directly after the low word (60_exceptions R446). -/
def State.storeTimerHigh (s : State) (k : TimerCounter) (v : Word) : Store :=
  if s.io.timer.heldOf = some k then
    .done (s.withTimer
      { s.io.timer.arm k (v ++ s.io.timer.heldLow) with heldOf := none, latchOf := none })
  else .refuse .timerProtocol

/-- A store to the timer (60_exceptions R443). -/
def State.storeTimer (s : State) (off : Nat) (v : Word) : Store :=
  match off with
  | 0x0 => s.storeTimerHigh .cycles v
  | 0x4 => s.storeTimerLow .cycles v
  | 0x8 => s.storeTimerHigh .usecs v
  | 0xc => s.storeTimerLow .usecs v
  | _ => .refuse .unassignedRegister

/-! ### Deadline, MMU, UARTs, LEDs, keys, the example counter -/

/-- A load from the deadline register stalls until the counter is 0; the value is free (60_exceptions R448). -/
def State.loadDeadline (s : State) (off : Nat) : Load :=
  if off = 0 then .value (Config.deadlineRead s.ticks) (s.passTime s.io.deadline.toNat)
  else .refuse .unassignedRegister

/-- A store to the deadline register sets the counter (60_exceptions R448). -/
def State.storeDeadline (s : State) (off : Nat) (v : Word) : Store :=
  if off = 0 then .done { s with io := { s.io with deadline := v } } else .refuse .unassignedRegister

/-- A load from the MMU's registers, base and configuration by turns (20_memory R100). -/
def State.loadMmu (s : State) (off : Nat) : Load :=
  if off < 0x40 then
    if off % 8 = 0 then .value s.mmu.segBase[Fin.ofNat 8 (off / 8)] s
    else .value s.mmu.segConf[Fin.ofNat 8 (off / 8)] s
  else .refuse .unassignedRegister

/-- A store to the MMU's registers, in privileged mode (20_memory R100, 60_exceptions R431). -/
def State.storeMmu (s : State) (off : Nat) (v : Word) : Store :=
  if off < 0x40 then
    let n : Fin 8 := Fin.ofNat 8 (off / 8)
    if s.userMode then s.userStore
    else if off % 8 = 0 then .done { s with mmu := { s.mmu with segBase := s.mmu.segBase.set n.val v n.isLt } }
    else .done { s with mmu := { s.mmu with segConf := s.mmu.segConf.set n.val v n.isLt } }
  else .refuse .unassignedRegister

/-- The UART, or with `port` the UART2. -/
def State.uartOf (s : State) (port : Bool) : Uart := if port then s.io.uart2 else s.io.uart

/-- The state with another UART or UART2. -/
def State.withUart (s : State) (port : Bool) (u : Uart) : State :=
  if port then { s with io := { s.io with uart2 := u } } else { s with io := { s.io with uart := u } }

/-- `TRE`, a free value (60_exceptions R450). -/
def State.uartTre (s : State) (port : Bool) : Bool := Config.uartReady port s.ticks

/-- `DAV`: free, but 1 only if a received byte is waiting (60_exceptions R450). -/
def State.uartDav (s : State) (port : Bool) : Bool :=
  !(s.uartOf port).rx.isEmpty && Config.uartShown port s.ticks

/-- A load from a UART: its status, or its oldest received byte (60_exceptions R450). -/
def State.loadUart (s : State) (port : Bool) (off : Nat) : Load :=
  let u := s.uartOf port
  match off with
  | 0 =>
    .value ((BitVec.ofBool (s.uartDav port) ++ BitVec.ofBool (s.uartTre port)).setWidth 32)
      (s.withUart port { u with readySeen := u.readySeen || s.uartTre port
                                dataSeen := u.dataSeen || s.uartDav port })
  | 4 =>
    match u.dataSeen, u.rx with
    | true, b :: rest => .value (b.setWidth 32) (s.withUart port { u with rx := rest, dataSeen := false })
    | _, _ => .refuse .uartProtocol
  | _ => .refuse .unassignedRegister

/-- A store to a UART: the byte is sent, or, if the transmitter is not known to be ready, sent or lost
(60_exceptions R450). -/
def State.storeUart (s : State) (port : Bool) (off : Nat) (v : Word) : Store :=
  let u := s.uartOf port
  match off with
  | 0 => .refuse .registerAccess
  | 4 =>
    let kept := u.readySeen || Config.uartKept port s.ticks
    .done (s.withUart port
      { u with tx := if kept then u.tx ++ [v.setWidth 8] else u.tx, readySeen := false })
  | _ => .refuse .unassignedRegister

/-- A store to the LEDs is recorded (60_exceptions R452). -/
def State.storeLeds (s : State) (off : Nat) (v : Word) : Store :=
  if off = 0 then .done { s with io := { s.io with leds := s.io.leds ++ [v] } } else .refuse .unassignedRegister

/-- A load from a register whose value is free. -/
def State.loadFree (s : State) (off : Nat) (v : Word) : Load :=
  if off = 0 then .value v s else .refuse .unassignedRegister

/-- A load from the example counter (60_exceptions R456). -/
def State.loadCounter (s : State) (off : Nat) : Load :=
  if off = 0 then .value (if s.cfg.devices.counterRuns then s.io.counter else 42) s
  else .refuse .unassignedRegister

/-- A store to the example counter; the first version never answers (60_exceptions R456). -/
def State.storeCounter (s : State) (off : Nat) (v : Word) : Store :=
  if off ≠ 0 then .refuse .unassignedRegister
  else if s.cfg.devices.counterRuns then .done { s with io := { s.io with counter := v } }
  else .hang

/-! ### The devices by name (60_exceptions R439) -/

/-- A word load from a present device, at an offset in its window. -/
def State.loadDevice (s : State) (d : Device) (off : Nat) : Load :=
  match d with
  | .cpuInfo => s.loadCpuInfo off
  | .excUnit => s.loadExc off
  | .timer => s.loadTimer off
  | .deadline => s.loadDeadline off
  | .mmu => s.loadMmu off
  | .uart => s.loadUart false off
  | .leds => s.loadFree off (Config.ledRead s.ticks)
  | .keys => s.loadFree off (Config.keysRead s.ticks)
  | .counter => s.loadCounter off
  | .audio => .refuse .undescribedDevice
  | .ethMac => .refuse .undescribedDevice
  | .uart2 => s.loadUart true off

/-- A word store to a present device. -/
def State.storeDevice (s : State) (d : Device) (off : Nat) (v : Word) : Store :=
  match d with
  | .cpuInfo => .refuse .registerAccess
  | .excUnit => s.storeExc off v
  | .timer => s.storeTimer off v
  | .deadline => s.storeDeadline off v
  | .mmu => s.storeMmu off v
  | .uart => s.storeUart false off v
  | .leds => s.storeLeds off v
  | .keys => .refuse .registerAccess
  | .counter => s.storeCounter off v
  | .audio => .refuse .undescribedDevice
  | .ethMac => .refuse .undescribedDevice
  | .uart2 => s.storeUart true off v

end Sys2Proof.Machine
end

