-- ==== Sys2Proof/Machine/Operands.lean ====
section
/-! DEFINITION. The operand forms: immediates, effective addresses, branch targets, the sizes and kinds of typed
accesses (30_encoding R140, R148; 46_load R281; 47_store R311). -/
namespace Sys2Proof.Machine

/-- The 12-bit immediate, zero-extended (30_encoding R129). -/
def op12 (imm : BitVec 12) : Word := imm.setWidth 32

/-- The 5-bit compare immediate, zero-extended (30_encoding R136). -/
def op5 (imm : BitVec 5) : Word := imm.setWidth 32

/-- The sizes of a memory access (20_memory R70). -/
inductive Size where
  | word | half | byte
deriving DecidableEq, Repr

/-- The number of bytes of an access. -/
def Size.bytes : Size → Nat
  | .word => 4
  | .half => 2
  | .byte => 1

/-- How far the displacement is shifted left (46_load R281). -/
def Size.scale : Size → Nat
  | .word => 2
  | .half => 1
  | .byte => 0

/-- The memory a typed access names (20_memory R61). -/
inductive Space where
  /-- `s`, the stack cache. -/
  | sc
  /-- `l`, the local memory. -/
  | lm
  /-- `c`, global memory through the data cache. -/
  | dc
  /-- `m`, global memory past the data cache. -/
  | gm
deriving DecidableEq, Repr

/-- The effective address: base plus scaled unsigned displacement, modulo 2^32 (46_load R281, 47_store R311). -/
def effective (base : Word) (size : Size) (imm : BitVec 7) : Word := base + (imm.setWidth 32 <<< size.scale)

/-- Is an address a multiple of the size of its access (20_memory R68)? -/
def aligned (size : Size) (a : Word) : Bool := a.toNat % size.bytes == 0

/-- A loaded value extended to 32 bits; a word is itself (46_load R283). -/
def extend (signed : Bool) : Size → Word → Word
  | .word, v => v
  | .half, v => if signed then (v.setWidth 16).signExtend 32 else (v.setWidth 16).setWidth 32
  | .byte, v => if signed then (v.setWidth 8).signExtend 32 else (v.setWidth 8).setWidth 32

/-- The byte count of a stack-control immediate: words times four (48_stack_control R330). -/
def stackBytes (imm : BitVec 18) : Word := imm.setWidth 32 <<< 2

/-- The absolute target of an immediate `call` or `brcf`: a word address (30_encoding R148). -/
def absoluteTarget (imm : BitVec 22) : Word := imm.setWidth 32 <<< 2

/-- The target of an immediate `br`: signed words from the branch's own address (30_encoding R148). -/
def relativeTarget (pc : Word) (imm : BitVec 22) : Word := pc + (imm.signExtend 32 <<< 2)

end Sys2Proof.Machine
end

