-- ==== Sys2Proof/Machine/Access.lean ====
section
/-! DEFINITION. Typed accesses: the stack cache, the local space, and global memory with and without the data cache
(20_memory R61 to R82). -/
namespace Sys2Proof.Machine

/-! ### The stack cache's own memory (20_memory R73, 48_stack_control R331) -/

/-- The number of valid bytes in the stack cache, `ss - st` (10_state R30). -/
def State.occupancy (s : State) : Nat := (s.sp.ss - s.sp.st).toNat

/-- What every stack operation requires of `ss` and `st` (48_stack_control R331). -/
def State.stackReady (s : State) : Bool :=
  s.sp.ss.toNat % 4 == 0 && s.sp.st.toNat % 4 == 0 && decide (s.occupancy ≤ s.cfg.scSize)

/-- The index in `sc` of a global byte address: its low bits, `SC_SIZE` being a power of two (10_state R35). -/
def State.scIndex (s : State) (a : Word) : Nat := a.toNat % s.cfg.scSize

/-- The indices in `sc` of the `n` bytes from global address `a` up. -/
def State.scSpan (s : State) (a : Word) (n : Nat) : List Nat :=
  (List.range n).map (fun i => s.scIndex (a + BitVec.ofNat 32 i))

/-- Does an access of `n` bytes at offset `ea` lie in the valid window (20_memory R73)? -/
def State.inWindow (s : State) (ea : Word) (n : Nat) : Bool := decide (ea.toNat + n ≤ s.occupancy)

/-- `MemRead(sc, ea, n)` (20_memory R73). -/
def State.loadSc (s : State) (ea : Word) (n : Nat) : Load :=
  if !s.stackReady then .refuse .stackPointers
  else if !s.inWindow ea n then .refuse .stackWindow
  else .value (s.sc.readWord (s.scSpan (s.sp.st + ea) n)) s

/-- `MemWrite(sc, ea, n, v)` (20_memory R73). -/
def State.storeSc (s : State) (ea : Word) (n : Nat) (v : Word) : Store :=
  if !s.stackReady then .refuse .stackPointers
  else if !s.inWindow ea n then .refuse .stackWindow
  else .done { s with sc := s.sc.writeWord (s.scSpan (s.sp.st + ea) n) v }

/-! ### The local space (20_memory R62, R65, R74, R77) -/

/-- The areas of the local address map (20_memory R62, R65). -/
inductive LocalArea where
  | dataScratchpad (a : Nat)
  | instructionScratchpad (off : Nat)
  | network
  | device (k : Fin 16) (off : Nat)
  | unmapped
deriving DecidableEq, Repr

/-- The area of a local address (20_memory R62, R65). -/
def localArea (a : Word) : LocalArea :=
  let n := a.toNat
  if n < 0x10000 then .dataScratchpad n
  else if n < 0x20000 then .instructionScratchpad (n - 0x10000)
  else if n < 0xe0000000 then .unmapped
  else if n < 0xf0000000 then .network
  else if n < 0xf0100000 then .device (Fin.ofNat 16 (n / 2 ^ 16)) (n % 2 ^ 16)
  else .unmapped

/-- `MemRead(lm, a, n)` (20_memory R74). An absent device is unmapped (20_memory R77, 60_exceptions R439). -/
def State.loadLocal (s : State) (a : Word) (size : Size) : Load :=
  match localArea a with
  | .dataScratchpad d =>
    if s.cfg.dspmSize < d + size.bytes then .refuse .beyondMemory
    else .value (s.mem.dspm.readWord (span d size.bytes)) s
  | .instructionScratchpad _ => .refuse .instructionScratchpadRead
  | .network => if s.cfg.devices.noc then .refuse .undescribedDevice else .fault
  | .device k off =>
    match s.cfg.deviceAt k with
    | none => .fault
    | some d => if size ≠ .word then .refuse .subWordIo else s.loadDevice d off
  | .unmapped => .fault

/-- `MemWrite(lm, a, n, v)` (20_memory R74). A store to the instruction scratchpad is visible to fetches after a
cache-filling transfer (20_memory R85 c). DESIGN CHOICE, log entry 44: a half-word or byte store to a present device is
refused (20_memory R65) before the mode is looked at (60_exceptions R431), also in user mode. -/
def State.storeLocal (s : State) (a : Word) (size : Size) (v : Word) : Store :=
  match localArea a with
  | .dataScratchpad d =>
    if s.cfg.dspmSize < d + size.bytes then .refuse .beyondMemory
    else .done { s with mem := { s.mem with dspm := s.mem.dspm.writeWord (span d size.bytes) v } }
  | .instructionScratchpad off =>
    if s.cfg.ispmSize < off + size.bytes then .refuse .beyondMemory
    else
      .done { s with
        mem := { s.mem with ispm := s.mem.ispm.writeWord (span off size.bytes) v }
        marks := { s.marks with ispmStale := s.marks.ispmStale.fill (span off size.bytes) 1 } }
  | .network => if s.cfg.devices.noc then .refuse .undescribedDevice else .fault
  | .device k off =>
    match s.cfg.deviceAt k with
    | none => .fault
    | some d => if size ≠ .word then .refuse .subWordIo else s.storeDevice d off v
  | .unmapped => .fault

/-! ### Global memory (20_memory R63, R75 to R77, R80 to R82, R100 to R102) -/

/-- Where a global access goes. -/
inductive Place where
  /-- The bytes from this physical address up. -/
  | at (pa : Nat)
  | fault
  | refuse (why : Refusal)
deriving DecidableEq, Repr

/-- The physical place of `n` bytes at a global address: the MMU's answer, then the map (20_memory R63, R77, R101). -/
def State.place (s : State) (k : AccessKind) (va : Word) (n : Nat) : Place :=
  match s.translate k va with
  | none => .fault
  | some pa =>
    if 0x80000000 ≤ pa.toNat then .fault
    else if s.cfg.memSize < pa.toNat + n then .refuse .beyondMemory
    else .at pa.toNat

/-- Does one of the `n` bytes at a global address lie in the stack-cache window `[st, ss)`, which only stack-typed
accesses may touch (70_reset_and_hazards R488 c; log entry 22)? -/
def State.aliasesStack (s : State) (va : Word) (n : Nat) : Bool :=
  s.stackReady &&
    (List.range n).any (fun i => decide ((va + BitVec.ofNat 32 i - s.sp.st).toNat < s.occupancy))

/-- May the bytes differ between memory and the data cache, for this kind of read (20_memory R81)? -/
def Marks.hides (m : Marks) (cached : Bool) (as : List Nat) : Bool :=
  if cached then m.dcStale.anySet as else m.dcDirty.anySet as

/-- `MemRead(dc, …)` if `cached`, else `MemRead(gm, …)` (20_memory R75, R76, R81). -/
def State.loadGlobal (s : State) (cached : Bool) (va : Word) (size : Size) : Load :=
  match s.place .read va size.bytes with
  | .fault => .fault
  | .refuse why => .refuse why
  | .at pa =>
    if s.aliasesStack va size.bytes then .refuse .stackAlias
    else if s.marks.hides cached (span pa size.bytes) then .refuse .staleData
    else .value (s.mem.gm.readWord (span pa size.bytes)) s

/-- The code mark of a byte after a store: a store that may have reached only a write-back cache is never seen by a
fetch (20_memory R85 a; log entry 17). -/
def codeMark (old : Byte) (backed : Bool) : Byte := if backed || old == 3 then 3 else 1

/-- The code marks after a store at the addresses. -/
def Memory.markCode : Memory → List Nat → Bool → Memory
  | m, a :: as, backed => Memory.markCode (m.write a (codeMark (m.read a) backed)) as backed
  | m, [], _ => m

/-- The marks after a store to global memory (20_memory R81, R85; log entries 14 and 17). -/
def Marks.stored (m : Marks) (cached writeBack : Bool) (as : List Nat) : Marks :=
  { m with dcStale := m.dcStale.fill as (if cached then 0 else 1)
           dcDirty := if cached && writeBack then m.dcDirty.fill as 1 else m.dcDirty
           icStale := m.icStale.markCode as (cached && writeBack) }

/-- The state after the low `n` bytes of `v` are stored at physical address `pa`. -/
def State.writeGlobal (s : State) (cached : Bool) (pa n : Nat) (v : Word) : State :=
  { s with mem := { s.mem with gm := s.mem.gm.writeWord (span pa n) v }
           marks := s.marks.stored cached s.cfg.writeBackDcache (span pa n) }

/-- `MemWrite(dc, …)` if `cached`, else `MemWrite(gm, …)` (20_memory R75, R76, R80, R81). -/
def State.storeGlobal (s : State) (cached : Bool) (va : Word) (size : Size) (v : Word) : Store :=
  match s.place .write va size.bytes with
  | .fault => .fault
  | .refuse why => .refuse why
  | .at pa =>
    if s.aliasesStack va size.bytes then .refuse .stackAlias
    else .done (s.writeGlobal cached pa size.bytes v)

/-! ### Typed loads and stores (20_memory R61, R68, R82) -/

/-- `MemRead(space, ea, n)`; a cached access goes to the local space in local mode (20_memory R82). -/
def State.loadFrom (s : State) (space : Space) (ea : Word) (size : Size) : Load :=
  if !aligned size ea then .refuse .misaligned
  else
    match space with
    | .sc => s.loadSc ea size.bytes
    | .lm => s.loadLocal ea size
    | .dc => if s.exc.localMode then s.loadLocal ea size else s.loadGlobal true ea size
    | .gm => s.loadGlobal false ea size

/-- `MemWrite(space, ea, n, v)` (20_memory R82). -/
def State.storeTo (s : State) (space : Space) (ea : Word) (size : Size) (v : Word) : Store :=
  if !aligned size ea then .refuse .misaligned
  else
    match space with
    | .sc => s.storeSc ea size.bytes v
    | .lm => s.storeLocal ea size v
    | .dc => if s.exc.localMode then s.storeLocal ea size v else s.storeGlobal true ea size v
    | .gm => s.storeGlobal false ea size v

/-! ### Spill and fill (48_stack_control R333) -/

/-- One word spilled: `ss` goes down by 4 and the word of `sc` there is stored to global memory. An address that
cannot be stored to is refused, whatever the MMU or the map says of it. -/
def State.spillWord (s : State) : Except Refusal State :=
  let a := s.sp.ss - 4
  match s.place .write a 4 with
  | .at pa =>
    .ok { s.writeGlobal false pa 4 (s.sc.readWord (s.scSpan a 4)) with sp := { s.sp with ss := a } }
  | _ => .error .spillFillAddress

/-- `spill` of a number of words. -/
def State.spillWords : Nat → State → Except Refusal State
  | 0, s => .ok s
  | n + 1, s =>
    match s.spillWord with
    | .ok t => State.spillWords n t
    | .error why => .error why

/-- One word filled: the word of global memory at `ss` is copied to `sc`, and `ss` goes up by 4. -/
def State.fillWord (s : State) : Except Refusal State :=
  match s.place .read s.sp.ss 4 with
  | .at pa =>
    if s.marks.hides false (span pa 4) then .error .staleData
    else
      .ok { s with sc := s.sc.writeWord (s.scSpan s.sp.ss 4) (s.mem.gm.readWord (span pa 4))
                   sp := { s.sp with ss := s.sp.ss + 4 } }
  | _ => .error .spillFillAddress

/-- `fill` of a number of words. -/
def State.fillWords : Nat → State → Except Refusal State
  | 0, s => .ok s
  | n + 1, s =>
    match s.fillWord with
    | .ok t => State.fillWords n t
    | .error why => .error why

/-- A spill or fill that could not be completed has no next state (48_stack_control R333). -/
def transferred : Except Refusal State → Result
  | .ok t => .next t
  | .error why => .refused why

end Sys2Proof.Machine
end

