-- ==== Sys2Proof/Machine/Alu.lean ====
section
/-! DEFINITION. The eleven functions of the arithmetic unit (40_alu R171) and the three operand forms they share (40_alu R170, R172). -/
namespace Sys2Proof.Machine

/-- `add` (40_alu R171). -/
def addWord (a b : Word) : Word := a + b

/-- `sub` (40_alu R171). -/
def subWord (a b : Word) : Word := a - b

/-- `xor` (40_alu R171). -/
def xorWord (a b : Word) : Word := a ^^^ b

/-- `or` (40_alu R171). -/
def orWord (a b : Word) : Word := a ||| b

/-- `and` (40_alu R171). -/
def andWord (a b : Word) : Word := a &&& b

/-- `nor` (40_alu R171). -/
def norWord (a b : Word) : Word := ~~~(a ||| b)

/-- Only the lower 5 bits of a shift amount count (40_alu R170). -/
def shiftAmount (b : Word) : Nat := b.toNat % 32

/-- `sl` (40_alu R171). -/
def shiftLeft (a b : Word) : Word := a <<< shiftAmount b

/-- `sr`, logical (40_alu R171). -/
def shiftRight (a b : Word) : Word := a >>> shiftAmount b

/-- `sra`, arithmetic (40_alu R171). -/
def shiftRightArith (a b : Word) : Word := a.sshiftRight (shiftAmount b)

/-- `shadd` (40_alu R171). -/
def shiftAdd (a b : Word) : Word := (a <<< 1) + b

/-- `shadd2` (40_alu R171). -/
def shiftAddTwo (a b : Word) : Word := (a <<< 2) + b

/-- ALUr: both operands in registers (40_alu R170). -/
def aluRegister (f : Word → Word → Word) (g : PredOp) (rd rs1 rs2 : GReg) (s : State) : Result :=
  s.guarded g (s.use rs1 fun a => s.use rs2 fun b => s.put rd (f a b))

/-- ALUi and ALUl: the second operand is an immediate, already extended (40_alu R170). -/
def aluConstant (f : Word → Word → Word) (g : PredOp) (rd rs1 : GReg) (b : Word) (s : State) : Result :=
  s.guarded g (s.use rs1 fun a => s.put rd (f a b))

end Sys2Proof.Machine
end

