-- ==== Sys2Proof/Machine/AluImmediate.lean ====
section
/-! DEFINITION. The arithmetic instructions with a 12-bit immediate, zero-extended, format ALUi (40_alu R184 to R191). -/
namespace Sys2Proof.Machine

/-- `addi`: `Rs1 + Op2` modulo 2^32, 12-bit immediate (40_alu R184). -/
def execAddi (g : PredOp) (rd rs1 : GReg) (imm : BitVec 12) (s : State) : Result :=
  aluConstant addWord g rd rs1 (op12 imm) s

/-- `subi`: `Rs1 - Op2` modulo 2^32, 12-bit immediate (40_alu R185). -/
def execSubi (g : PredOp) (rd rs1 : GReg) (imm : BitVec 12) (s : State) : Result :=
  aluConstant subWord g rd rs1 (op12 imm) s

/-- `xori`: bitwise exclusive or, 12-bit immediate (40_alu R186). -/
def execXori (g : PredOp) (rd rs1 : GReg) (imm : BitVec 12) (s : State) : Result :=
  aluConstant xorWord g rd rs1 (op12 imm) s

/-- `sli`: shift left by the low 5 bits of `Op2`, 12-bit immediate (40_alu R187). -/
def execSli (g : PredOp) (rd rs1 : GReg) (imm : BitVec 12) (s : State) : Result :=
  aluConstant shiftLeft g rd rs1 (op12 imm) s

/-- `sri`: logical shift right by the low 5 bits of `Op2`, 12-bit immediate (40_alu R188). -/
def execSri (g : PredOp) (rd rs1 : GReg) (imm : BitVec 12) (s : State) : Result :=
  aluConstant shiftRight g rd rs1 (op12 imm) s

/-- `srai`: arithmetic shift right by the low 5 bits of `Op2`, 12-bit immediate (40_alu R189). -/
def execSrai (g : PredOp) (rd rs1 : GReg) (imm : BitVec 12) (s : State) : Result :=
  aluConstant shiftRightArith g rd rs1 (op12 imm) s

/-- `ori`: bitwise or, 12-bit immediate (40_alu R190). -/
def execOri (g : PredOp) (rd rs1 : GReg) (imm : BitVec 12) (s : State) : Result :=
  aluConstant orWord g rd rs1 (op12 imm) s

/-- `andi`: bitwise and, 12-bit immediate (40_alu R191). -/
def execAndi (g : PredOp) (rd rs1 : GReg) (imm : BitVec 12) (s : State) : Result :=
  aluConstant andWord g rd rs1 (op12 imm) s

end Sys2Proof.Machine
end

