-- ==== Sys2Proof/Machine/AluLong.lean ====
section
/-! DEFINITION. The arithmetic instructions with a 32-bit immediate, format ALUl (40_alu R192 to R202). -/
namespace Sys2Proof.Machine

/-- `addl`: `Rs1 + Op2` modulo 2^32, long immediate (40_alu R192). -/
def execAddl (g : PredOp) (rd rs1 : GReg) (imm : Word) (s : State) : Result :=
  aluConstant addWord g rd rs1 imm s

/-- `subl`: `Rs1 - Op2` modulo 2^32, long immediate (40_alu R193). -/
def execSubl (g : PredOp) (rd rs1 : GReg) (imm : Word) (s : State) : Result :=
  aluConstant subWord g rd rs1 imm s

/-- `xorl`: bitwise exclusive or, long immediate (40_alu R194). -/
def execXorl (g : PredOp) (rd rs1 : GReg) (imm : Word) (s : State) : Result :=
  aluConstant xorWord g rd rs1 imm s

/-- `sll`: shift left by the low 5 bits of `Op2`, long immediate (40_alu R195). -/
def execSll (g : PredOp) (rd rs1 : GReg) (imm : Word) (s : State) : Result :=
  aluConstant shiftLeft g rd rs1 imm s

/-- `srl`: logical shift right by the low 5 bits of `Op2`, long immediate (40_alu R196). -/
def execSrl (g : PredOp) (rd rs1 : GReg) (imm : Word) (s : State) : Result :=
  aluConstant shiftRight g rd rs1 imm s

/-- `sral`: arithmetic shift right by the low 5 bits of `Op2`, long immediate (40_alu R197). -/
def execSral (g : PredOp) (rd rs1 : GReg) (imm : Word) (s : State) : Result :=
  aluConstant shiftRightArith g rd rs1 imm s

/-- `orl`: bitwise or, long immediate (40_alu R198). -/
def execOrl (g : PredOp) (rd rs1 : GReg) (imm : Word) (s : State) : Result :=
  aluConstant orWord g rd rs1 imm s

/-- `andl`: bitwise and, long immediate (40_alu R199). -/
def execAndl (g : PredOp) (rd rs1 : GReg) (imm : Word) (s : State) : Result :=
  aluConstant andWord g rd rs1 imm s

/-- `norl`: complement of the bitwise or, long immediate (40_alu R200). -/
def execNorl (g : PredOp) (rd rs1 : GReg) (imm : Word) (s : State) : Result :=
  aluConstant norWord g rd rs1 imm s

/-- `shaddl`: `(Rs1 << 1) + Op2` modulo 2^32, long immediate (40_alu R201). -/
def execShaddl (g : PredOp) (rd rs1 : GReg) (imm : Word) (s : State) : Result :=
  aluConstant shiftAdd g rd rs1 imm s

/-- `shadd2l`: `(Rs1 << 2) + Op2` modulo 2^32, long immediate (40_alu R202). -/
def execShadd2l (g : PredOp) (rd rs1 : GReg) (imm : Word) (s : State) : Result :=
  aluConstant shiftAddTwo g rd rs1 imm s

end Sys2Proof.Machine
end

