-- ==== Sys2Proof/Machine/AluRegister.lean ====
section
/-! DEFINITION. The arithmetic instructions with two register operands, format ALUr (40_alu R173 to R183). -/
namespace Sys2Proof.Machine

/-- `add`: `Rs1 + Op2` modulo 2^32 (40_alu R173). -/
def execAdd (g : PredOp) (rd rs1 rs2 : GReg) (s : State) : Result :=
  aluRegister addWord g rd rs1 rs2 s

/-- `sub`: `Rs1 - Op2` modulo 2^32 (40_alu R174). -/
def execSub (g : PredOp) (rd rs1 rs2 : GReg) (s : State) : Result :=
  aluRegister subWord g rd rs1 rs2 s

/-- `xor`: bitwise exclusive or (40_alu R175). -/
def execXor (g : PredOp) (rd rs1 rs2 : GReg) (s : State) : Result :=
  aluRegister xorWord g rd rs1 rs2 s

/-- `sl`: shift left by the low 5 bits of `Op2` (40_alu R176). -/
def execSl (g : PredOp) (rd rs1 rs2 : GReg) (s : State) : Result :=
  aluRegister shiftLeft g rd rs1 rs2 s

/-- `sr`: logical shift right by the low 5 bits of `Op2` (40_alu R177). -/
def execSr (g : PredOp) (rd rs1 rs2 : GReg) (s : State) : Result :=
  aluRegister shiftRight g rd rs1 rs2 s

/-- `sra`: arithmetic shift right by the low 5 bits of `Op2` (40_alu R178). -/
def execSra (g : PredOp) (rd rs1 rs2 : GReg) (s : State) : Result :=
  aluRegister shiftRightArith g rd rs1 rs2 s

/-- `or`: bitwise or (40_alu R179). -/
def execOr (g : PredOp) (rd rs1 rs2 : GReg) (s : State) : Result :=
  aluRegister orWord g rd rs1 rs2 s

/-- `and`: bitwise and (40_alu R180). -/
def execAnd (g : PredOp) (rd rs1 rs2 : GReg) (s : State) : Result :=
  aluRegister andWord g rd rs1 rs2 s

/-- `nor`: complement of the bitwise or (40_alu R181). -/
def execNor (g : PredOp) (rd rs1 rs2 : GReg) (s : State) : Result :=
  aluRegister norWord g rd rs1 rs2 s

/-- `shadd`: `(Rs1 << 1) + Op2` modulo 2^32 (40_alu R182). -/
def execShadd (g : PredOp) (rd rs1 rs2 : GReg) (s : State) : Result :=
  aluRegister shiftAdd g rd rs1 rs2 s

/-- `shadd2`: `(Rs1 << 2) + Op2` modulo 2^32 (40_alu R183). -/
def execShadd2 (g : PredOp) (rd rs1 rs2 : GReg) (s : State) : Result :=
  aluRegister shiftAddTwo g rd rs1 rs2 s

end Sys2Proof.Machine
end

