-- ==== Sys2Proof/Machine/Bitcopy.lean ====
section
/-! DEFINITION. The bit copy, format ALUb (44_bitcopy R260). -/
namespace Sys2Proof.Machine

/-- `a` with bit `n` replaced by `b` (44_bitcopy R260). -/
def replaceBit (a : Word) (n : Nat) (b : Bool) : Word :=
  (a &&& ~~~(1#32 <<< n)) ||| ((BitVec.ofBool b).setWidth 32 <<< n)

/-- `bcopy`: `Rs1` with bit `Imm` replaced by a predicate operand (44_bitcopy R260). -/
def execBcopy (g : PredOp) (rd rs1 : GReg) (imm : BitVec 5) (ps : PredOp) (s : State) : Result :=
  s.guarded g (s.use rs1 fun a => s.put rd (replaceBit a imm.toNat (s.ps ps)))

end Sys2Proof.Machine
end

