-- ==== Sys2Proof/Machine/Flags.lean ====
section
/-! DEFINITION. The results that predicates receive. Patmos has no flags register: the predicates are its only flags,
and only compares, predicate combines and `mts s0` write them (10_state R24). Also the view s0 of the predicates. -/
namespace Sys2Proof.Machine

/-- `cmpeq` (42_compare R231). -/
def isEq (a b : Word) : Bool := a == b

/-- `cmpneq` (42_compare R231). -/
def isNe (a b : Word) : Bool := a != b

/-- `cmplt`, signed (42_compare R231). -/
def isLt (a b : Word) : Bool := decide (a.toInt < b.toInt)

/-- `cmple`, signed (42_compare R231). -/
def isLe (a b : Word) : Bool := decide (a.toInt ≤ b.toInt)

/-- `cmpult` (42_compare R231). -/
def isUlt (a b : Word) : Bool := decide (a.toNat < b.toNat)

/-- `cmpule` (42_compare R231). -/
def isUle (a b : Word) : Bool := decide (a.toNat ≤ b.toNat)

/-- `btest`: bit `b` of `a` (42_compare R231, R239). -/
def bitOf (a b : Word) : Bool := a.getLsbD b.toNat

/-- `s0` as read: bit i is `P[i]`, bits 31:8 are 0 (10_state R28, 45_special_moves R267). -/
def State.predWord (s : State) : Word :=
  (BitVec.ofBool (s.pred 7) ++ BitVec.ofBool (s.pred 6) ++ BitVec.ofBool (s.pred 5) ++ BitVec.ofBool (s.pred 4) ++
    BitVec.ofBool (s.pred 3) ++ BitVec.ofBool (s.pred 2) ++ BitVec.ofBool (s.pred 1) ++
    BitVec.ofBool (s.pred 0)).setWidth 32

/-- `s0` as written: bits 7:1 become p7 to p1, the other bits are discarded (10_state R28, 45_special_moves R267). -/
def State.setPreds (s : State) (v : Word) : State :=
  { s with preds := Vector.ofFn (fun i : Fin 8 => if i = 0 then s.preds[i] else v.getLsbD i.val) }

end Sys2Proof.Machine
end

