-- ==== Sys2Proof/Machine/Compare.lean ====
section
/-! DEFINITION. The compares, formats ALUc and ALUci (42_compare R230 to R246). -/
namespace Sys2Proof.Machine

/-- A compare of two registers (42_compare R230, R232). -/
def compareRegister (f : Word → Word → Bool) (g : PredOp) (pd : PReg) (rs1 rs2 : GReg) (s : State) : Result :=
  s.guarded g (s.use rs1 fun a => s.use rs2 fun b => .next (s.setPred pd (f a b)))

/-- A compare with a 5-bit immediate, zero-extended (42_compare R230, R232). -/
def compareConstant (f : Word → Word → Bool) (g : PredOp) (pd : PReg) (rs1 : GReg) (imm : BitVec 5) (s : State) :
    Result :=
  s.guarded g (s.use rs1 fun a => .next (s.setPred pd (f a (op5 imm))))

/-- `cmpeq`: equal (42_compare R233). -/
def execCmpeq (g : PredOp) (pd : PReg) (rs1 rs2 : GReg) (s : State) : Result :=
  compareRegister isEq g pd rs1 rs2 s

/-- `cmpneq`: not equal (42_compare R234). -/
def execCmpneq (g : PredOp) (pd : PReg) (rs1 rs2 : GReg) (s : State) : Result :=
  compareRegister isNe g pd rs1 rs2 s

/-- `cmplt`: signed less than (42_compare R235). -/
def execCmplt (g : PredOp) (pd : PReg) (rs1 rs2 : GReg) (s : State) : Result :=
  compareRegister isLt g pd rs1 rs2 s

/-- `cmple`: signed less than or equal (42_compare R236). -/
def execCmple (g : PredOp) (pd : PReg) (rs1 rs2 : GReg) (s : State) : Result :=
  compareRegister isLe g pd rs1 rs2 s

/-- `cmpult`: unsigned less than (42_compare R237). -/
def execCmpult (g : PredOp) (pd : PReg) (rs1 rs2 : GReg) (s : State) : Result :=
  compareRegister isUlt g pd rs1 rs2 s

/-- `cmpule`: unsigned less than or equal (42_compare R238). -/
def execCmpule (g : PredOp) (pd : PReg) (rs1 rs2 : GReg) (s : State) : Result :=
  compareRegister isUle g pd rs1 rs2 s

/-- `btest`: test of one bit; a bit index of 32 or more is refused (42_compare R239). -/
def execBtest (g : PredOp) (pd : PReg) (rs1 rs2 : GReg) (s : State) : Result :=
  s.guarded g
    (s.use rs1 fun a => s.use rs2 fun b =>
      need (decide (b.toNat < 32)) .bitIndex (.next (s.setPred pd (bitOf a b))))

/-- `cmpeqi`: equal, 5-bit immediate (42_compare R240). -/
def execCmpeqi (g : PredOp) (pd : PReg) (rs1 : GReg) (imm : BitVec 5) (s : State) : Result :=
  compareConstant isEq g pd rs1 imm s

/-- `cmpneqi`: not equal, 5-bit immediate (42_compare R241). -/
def execCmpneqi (g : PredOp) (pd : PReg) (rs1 : GReg) (imm : BitVec 5) (s : State) : Result :=
  compareConstant isNe g pd rs1 imm s

/-- `cmplti`: signed less than, 5-bit immediate (42_compare R242). -/
def execCmplti (g : PredOp) (pd : PReg) (rs1 : GReg) (imm : BitVec 5) (s : State) : Result :=
  compareConstant isLt g pd rs1 imm s

/-- `cmplei`: signed less than or equal, 5-bit immediate (42_compare R243). -/
def execCmplei (g : PredOp) (pd : PReg) (rs1 : GReg) (imm : BitVec 5) (s : State) : Result :=
  compareConstant isLe g pd rs1 imm s

/-- `cmpulti`: unsigned less than, 5-bit immediate (42_compare R244). -/
def execCmpulti (g : PredOp) (pd : PReg) (rs1 : GReg) (imm : BitVec 5) (s : State) : Result :=
  compareConstant isUlt g pd rs1 imm s

/-- `cmpulei`: unsigned less than or equal, 5-bit immediate (42_compare R245). -/
def execCmpulei (g : PredOp) (pd : PReg) (rs1 : GReg) (imm : BitVec 5) (s : State) : Result :=
  compareConstant isUle g pd rs1 imm s

/-- `btesti`: test of one bit, 5-bit immediate (42_compare R246). -/
def execBtesti (g : PredOp) (pd : PReg) (rs1 : GReg) (imm : BitVec 5) (s : State) : Result :=
  compareConstant bitOf g pd rs1 imm s

end Sys2Proof.Machine
end

