-- ==== Sys2Proof/Machine/ControlFlow.lean ====
section
/-! DEFINITION. The control-flow instructions, formats CFLi, CFLri, CFLrs, CFLrt (49_control_flow R350 to R380). -/
namespace Sys2Proof.Machine

/-- A register target must be a multiple of 4 (20_memory R69). -/
def alignedTarget (t : Word) (k : Result) : Result := need (t.toNat % 4 == 0) .misalignedTarget k

/-- The target of a return, base plus offset (49_control_flow R366, R367). -/
def State.returnTarget (s : State) : Word := s.sp.srb + s.sp.sro

/-- The target of a return from an exception (49_control_flow R368, R369). -/
def State.excReturnTarget (s : State) : Word := s.sp.sxb + s.sp.sxo

/-- `callnd`: call, non-delayed, absolute (49_control_flow R360). -/
def execCallnd (g : PredOp) (imm : BitVec 22) (s : State) : Result :=
  s.guarded g (s.transferNow (s.link s.nextPc) (absoluteTarget imm) (absoluteTarget imm))

/-- `call`: call, delayed by 3 bundles, absolute (49_control_flow R361). -/
def execCall (g : PredOp) (imm : BitVec 22) (s : State) : Result :=
  s.guarded g (s.transferLater 3 .call (absoluteTarget imm) (absoluteTarget imm))

/-- `brnd`: local branch, non-delayed, relative to the branch (49_control_flow R362). -/
def execBrnd (g : PredOp) (imm : BitVec 22) (s : State) : Result :=
  s.guarded g (s.branchNow (relativeTarget s.pc imm))

/-- `br`: local branch, delayed by 2 bundles, relative to the branch (49_control_flow R363). -/
def execBr (g : PredOp) (imm : BitVec 22) (s : State) : Result :=
  s.guarded g (s.branchLater (relativeTarget s.pc imm))

/-- `brcfnd`: branch with cache fill, non-delayed, absolute (49_control_flow R364). -/
def execBrcfnd (g : PredOp) (imm : BitVec 22) (s : State) : Result :=
  s.guarded g (s.transferNow s (absoluteTarget imm) (absoluteTarget imm))

/-- `brcf`: branch with cache fill, delayed by 3 bundles, absolute (49_control_flow R365). -/
def execBrcf (g : PredOp) (imm : BitVec 22) (s : State) : Result :=
  s.guarded g (s.transferLater 3 .brcf (absoluteTarget imm) (absoluteTarget imm))

/-- `retnd`: return, non-delayed (49_control_flow R366). -/
def execRetnd (g : PredOp) (s : State) : Result :=
  s.guarded g (s.transferNow s s.sp.srb s.returnTarget)

/-- `ret`: return, delayed by 3 bundles (49_control_flow R367). -/
def execRet (g : PredOp) (s : State) : Result :=
  s.guarded g (s.transferLater 3 .ret s.sp.srb s.returnTarget)

/-- `xretnd`: return from an exception, non-delayed (49_control_flow R368). -/
def execXretnd (g : PredOp) (s : State) : Result :=
  s.guarded g (s.transferNow s.restoreStatus s.sp.sxb s.excReturnTarget)

/-- `xret`: return from an exception, delayed by 3 bundles (49_control_flow R369). -/
def execXret (g : PredOp) (s : State) : Result :=
  s.guarded g (s.transferLater 3 .xret s.sp.sxb s.excReturnTarget)

/-- `callnd`: call through a register, non-delayed (49_control_flow R370). -/
def execCallndR (g : PredOp) (rs : GReg) (s : State) : Result :=
  s.guarded g (s.use rs fun t => s.transferNow (s.link s.nextPc) t t)

/-- `call`: call through a register, delayed by 3 bundles (49_control_flow R371). -/
def execCallR (g : PredOp) (rs : GReg) (s : State) : Result :=
  s.guarded g (s.use rs fun t => s.transferLater 3 .call t t)

/-- `brnd`: local branch through a register, non-delayed (49_control_flow R372). -/
def execBrndR (g : PredOp) (rs : GReg) (s : State) : Result :=
  s.guarded g (s.use rs fun t => s.branchNow t)

/-- `br`: local branch through a register, delayed by 2 bundles (49_control_flow R373). -/
def execBrR (g : PredOp) (rs : GReg) (s : State) : Result :=
  s.guarded g (s.use rs fun t => s.branchLater t)

/-- `brcfnd`: branch with cache fill to base plus offset, non-delayed (49_control_flow R374). -/
def execBrcfndR (g : PredOp) (rs1 rs2 : GReg) (s : State) : Result :=
  s.guarded g
    (s.use rs1 fun b => s.use rs2 fun off => alignedTarget b (s.transferNow s b (b + off)))

/-- `brcf`: branch with cache fill to base plus offset, delayed by 3 bundles (49_control_flow R375). -/
def execBrcfR (g : PredOp) (rs1 rs2 : GReg) (s : State) : Result :=
  s.guarded g
    (s.use rs1 fun b => s.use rs2 fun off => alignedTarget b (s.transferLater 3 .brcf b (b + off)))

/-- `trap`: exception entry with number `Imm`, returning to the bundle after this one-word bundle (49_control_flow R380). -/
def execTrap (g : PredOp) (imm : BitVec 22) (s : State) : Result :=
  s.guarded g
    (need s.pending.isNone .controlInDelaySlot
      (need (decide (imm.toNat < 32)) .trapNumber
        (need (s.nextPc == s.pc + 4) .trapNotAlone (s.takeException (Fin.ofNat 32 imm.toNat) (s.pc + 4)))))

end Sys2Proof.Machine
end

