-- ==== Sys2Proof/Machine/Loads.lean ====
section
/-! DEFINITION. The typed loads, format LDT (46_load R280 to R304). -/
namespace Sys2Proof.Machine

/-- The state after a load has written its register and set the load mark; r0 takes neither (46_load R282, R284). -/
def State.putLoaded (s : State) (rd : GReg) (v : Word) : State :=
  { s.setReg rd v with loadShadow := if rd = 0 then none else some rd }

/-- A typed load of one size and extension from one memory (46_load R281 to R284). -/
def loadTyped (space : Space) (size : Size) (signed : Bool) (g : PredOp) (rd ra : GReg) (imm : BitVec 7) (s : State) :
    Result :=
  s.guarded g
    (s.use ra fun b =>
      need (!s.shadowed rd) .loadDelay
        (match s.loadFrom space (effective b size imm) size with
         | .value v t => .next (t.putLoaded rd (extend signed size v))
         | .fault => s.illegalAccess
         | .refuse why => .refused why))

/-- `lws`: word from the stack cache (46_load R285). -/
def execLws (g : PredOp) (rd ra : GReg) (imm : BitVec 7) (s : State) : Result :=
  loadTyped .sc .word false g rd ra imm s

/-- `lwl`: word from local memory (46_load R286). -/
def execLwl (g : PredOp) (rd ra : GReg) (imm : BitVec 7) (s : State) : Result :=
  loadTyped .lm .word false g rd ra imm s

/-- `lwc`: word from global memory through the data cache (46_load R287). -/
def execLwc (g : PredOp) (rd ra : GReg) (imm : BitVec 7) (s : State) : Result :=
  loadTyped .dc .word false g rd ra imm s

/-- `lwm`: word from global memory past the data cache (46_load R288). -/
def execLwm (g : PredOp) (rd ra : GReg) (imm : BitVec 7) (s : State) : Result :=
  loadTyped .gm .word false g rd ra imm s

/-- `lhs`: half-word from the stack cache, sign-extended (46_load R289). -/
def execLhs (g : PredOp) (rd ra : GReg) (imm : BitVec 7) (s : State) : Result :=
  loadTyped .sc .half true g rd ra imm s

/-- `lhl`: half-word from local memory, sign-extended (46_load R290). -/
def execLhl (g : PredOp) (rd ra : GReg) (imm : BitVec 7) (s : State) : Result :=
  loadTyped .lm .half true g rd ra imm s

/-- `lhc`: half-word from global memory through the data cache, sign-extended (46_load R291). -/
def execLhc (g : PredOp) (rd ra : GReg) (imm : BitVec 7) (s : State) : Result :=
  loadTyped .dc .half true g rd ra imm s

/-- `lhm`: half-word from global memory past the data cache, sign-extended (46_load R292). -/
def execLhm (g : PredOp) (rd ra : GReg) (imm : BitVec 7) (s : State) : Result :=
  loadTyped .gm .half true g rd ra imm s

/-- `lbs`: byte from the stack cache, sign-extended (46_load R293). -/
def execLbs (g : PredOp) (rd ra : GReg) (imm : BitVec 7) (s : State) : Result :=
  loadTyped .sc .byte true g rd ra imm s

/-- `lbl`: byte from local memory, sign-extended (46_load R294). -/
def execLbl (g : PredOp) (rd ra : GReg) (imm : BitVec 7) (s : State) : Result :=
  loadTyped .lm .byte true g rd ra imm s

/-- `lbc`: byte from global memory through the data cache, sign-extended (46_load R295). -/
def execLbc (g : PredOp) (rd ra : GReg) (imm : BitVec 7) (s : State) : Result :=
  loadTyped .dc .byte true g rd ra imm s

/-- `lbm`: byte from global memory past the data cache, sign-extended (46_load R296). -/
def execLbm (g : PredOp) (rd ra : GReg) (imm : BitVec 7) (s : State) : Result :=
  loadTyped .gm .byte true g rd ra imm s

/-- `lhus`: half-word from the stack cache, zero-extended (46_load R297). -/
def execLhus (g : PredOp) (rd ra : GReg) (imm : BitVec 7) (s : State) : Result :=
  loadTyped .sc .half false g rd ra imm s

/-- `lhul`: half-word from local memory, zero-extended (46_load R298). -/
def execLhul (g : PredOp) (rd ra : GReg) (imm : BitVec 7) (s : State) : Result :=
  loadTyped .lm .half false g rd ra imm s

/-- `lhuc`: half-word from global memory through the data cache, zero-extended (46_load R299). -/
def execLhuc (g : PredOp) (rd ra : GReg) (imm : BitVec 7) (s : State) : Result :=
  loadTyped .dc .half false g rd ra imm s

/-- `lhum`: half-word from global memory past the data cache, zero-extended (46_load R300). -/
def execLhum (g : PredOp) (rd ra : GReg) (imm : BitVec 7) (s : State) : Result :=
  loadTyped .gm .half false g rd ra imm s

/-- `lbus`: byte from the stack cache, zero-extended (46_load R301). -/
def execLbus (g : PredOp) (rd ra : GReg) (imm : BitVec 7) (s : State) : Result :=
  loadTyped .sc .byte false g rd ra imm s

/-- `lbul`: byte from local memory, zero-extended (46_load R302). -/
def execLbul (g : PredOp) (rd ra : GReg) (imm : BitVec 7) (s : State) : Result :=
  loadTyped .lm .byte false g rd ra imm s

/-- `lbuc`: byte from global memory through the data cache, zero-extended (46_load R303). -/
def execLbuc (g : PredOp) (rd ra : GReg) (imm : BitVec 7) (s : State) : Result :=
  loadTyped .dc .byte false g rd ra imm s

/-- `lbum`: byte from global memory past the data cache, zero-extended (46_load R304). -/
def execLbum (g : PredOp) (rd ra : GReg) (imm : BitVec 7) (s : State) : Result :=
  loadTyped .gm .byte false g rd ra imm s

end Sys2Proof.Machine
end

