-- ==== Sys2Proof/Machine/Multiply.lean ====
section
/-! DEFINITION. The multiplications, format ALUm (41_multiply R220 to R224). -/
namespace Sys2Proof.Machine

/-- The 64-bit product goes to `sl` and `sh`, and the multiply window opens (41_multiply R221, R222). -/
def State.putProduct (s : State) (p : BitVec 64) : State :=
  { s with sp := { s.sp with sl := p.setWidth 32, sh := (p >>> 32).setWidth 32 }
           mulShadow := s.cfg.mulDelay }

/-- The exact signed product (41_multiply R221). -/
def signedProduct (a b : Word) : BitVec 64 := BitVec.ofInt 64 (a.toInt * b.toInt)

/-- The exact unsigned product (41_multiply R223). -/
def unsignedProduct (a b : Word) : BitVec 64 := BitVec.ofNat 64 (a.toNat * b.toNat)

/-- A multiplication of two registers. -/
def multiply (f : Word → Word → BitVec 64) (g : PredOp) (rs1 rs2 : GReg) (s : State) : Result :=
  s.guarded g (s.use rs1 fun a => s.use rs2 fun b => .next (s.putProduct (f a b)))

/-- `mul`: signed 32 x 32 to 64 bits (41_multiply R221). -/
def execMul (g : PredOp) (rs1 rs2 : GReg) (s : State) : Result :=
  multiply signedProduct g rs1 rs2 s

/-- `mulu`: unsigned 32 x 32 to 64 bits (41_multiply R223). -/
def execMulu (g : PredOp) (rs1 rs2 : GReg) (s : State) : Result :=
  multiply unsignedProduct g rs1 rs2 s

end Sys2Proof.Machine
end

