-- ==== Sys2Proof/Machine/Predicate.lean ====
section
/-! DEFINITION. The predicate combines, format ALUp (43_predicate R250 to R254). -/
namespace Sys2Proof.Machine

/-- A combination of two predicate operands (43_predicate R251). -/
def combine (f : Bool → Bool → Bool) (g : PredOp) (pd : PReg) (ps1 ps2 : PredOp) (s : State) : Result :=
  s.guarded g (.next (s.setPred pd (f (s.ps ps1) (s.ps ps2))))

/-- `por`: or of two predicate operands (43_predicate R252). -/
def execPor (g : PredOp) (pd : PReg) (ps1 ps2 : PredOp) (s : State) : Result :=
  combine Bool.or g pd ps1 ps2 s

/-- `pand`: and of two predicate operands (43_predicate R253). -/
def execPand (g : PredOp) (pd : PReg) (ps1 ps2 : PredOp) (s : State) : Result :=
  combine Bool.and g pd ps1 ps2 s

/-- `pxor`: exclusive or of two predicate operands (43_predicate R254). -/
def execPxor (g : PredOp) (pd : PReg) (ps1 ps2 : PredOp) (s : State) : Result :=
  combine Bool.xor g pd ps1 ps2 s

end Sys2Proof.Machine
end

