-- ==== Sys2Proof/Machine/SpecialMoves.lean ====
section
/-! DEFINITION. The special moves, formats SPCt and SPCf (45_special_moves R265 to R274). -/
namespace Sys2Proof.Machine

/-- Is a transfer of this kind pending? -/
def State.pendingKind (s : State) (k : TransferKind) : Bool :=
  match s.pending with
  | some p => p.kind == k
  | none => false

/-- What keeps a special register from being read (45_special_moves R268, R272, R273; 49_control_flow R355). -/
def State.specialUnreadable (s : State) (n : SReg) : Option Refusal :=
  match n.val with
  | 2 | 3 => if s.mulShadow = 0 then none else some .multiplyInFlight
  | 7 | 8 => if s.pendingKind .call then some .returnRegisterInDelaySlot else none
  | 0 | 5 | 6 | 9 | 10 => none
  | _ => if s.cfg.plainSpecials then none else some .unnamedSpecial

/-- What keeps a special register from being written (45_special_moves R268, R273; 49_control_flow R355, R367,
R369). -/
def State.specialUnwritable (s : State) (n : SReg) : Option Refusal :=
  match n.val with
  | 2 | 3 => if s.mulShadow = 0 then none else some .multiplyInFlight
  | 7 | 8 => if s.pendingKind .call || s.pendingKind .ret then some .returnRegisterInDelaySlot else none
  | 9 | 10 => if s.pendingKind .xret then some .returnRegisterInDelaySlot else none
  | 0 | 5 | 6 => none
  | _ => if s.cfg.plainSpecials then none else some .unnamedSpecial

/-- `S[n]` (10_state R26 to R33; 45_special_moves R272). -/
def State.special (s : State) (n : SReg) : Word :=
  match n.val with
  | 0 => s.predWord
  | 1 => s.sp.s1
  | 2 => s.sp.sl
  | 3 => s.sp.sh
  | 4 => s.sp.s4
  | 5 => s.sp.ss
  | 6 => s.sp.st
  | 7 => s.sp.srb
  | 8 => s.sp.sro
  | 9 => s.sp.sxb
  | 10 => s.sp.sxo
  | 11 => s.sp.s11
  | 12 => s.sp.s12
  | 13 => s.sp.s13
  | 14 => s.sp.s14
  | _ => s.sp.s15

/-- `S[n] <- v`; only the named register changes (10_state R26 to R33; 45_special_moves R267 to R273). -/
def State.setSpecial (s : State) (n : SReg) (v : Word) : State :=
  match n.val with
  | 0 => s.setPreds v
  | 1 => { s with sp := { s.sp with s1 := v } }
  | 2 => { s with sp := { s.sp with sl := v } }
  | 3 => { s with sp := { s.sp with sh := v } }
  | 4 => { s with sp := { s.sp with s4 := v } }
  | 5 => { s with sp := { s.sp with ss := v } }
  | 6 => { s with sp := { s.sp with st := v } }
  | 7 => { s with sp := { s.sp with srb := v } }
  | 8 => { s with sp := { s.sp with sro := v } }
  | 9 => { s with sp := { s.sp with sxb := v } }
  | 10 => { s with sp := { s.sp with sxo := v } }
  | 11 => { s with sp := { s.sp with s11 := v } }
  | 12 => { s with sp := { s.sp with s12 := v } }
  | 13 => { s with sp := { s.sp with s13 := v } }
  | 14 => { s with sp := { s.sp with s14 := v } }
  | _ => { s with sp := { s.sp with s15 := v } }

/-- `mts`: special register `Sd` takes the value of `Rs1` (45_special_moves R266). -/
def execMts (g : PredOp) (sd : SReg) (rs1 : GReg) (s : State) : Result :=
  s.guarded g
    (s.use rs1 fun v =>
      match s.specialUnwritable sd with
      | some why => .refused why
      | none => .next (s.setSpecial sd v))

/-- `mfs`: `Rd` takes the value of special register `Ss` (45_special_moves R271). -/
def execMfs (g : PredOp) (rd : GReg) (ss : SReg) (s : State) : Result :=
  s.guarded g
    (match s.specialUnreadable ss with
     | some why => .refused why
     | none => s.put rd (s.special ss))

end Sys2Proof.Machine
end

