-- ==== Sys2Proof/Machine/StackControl.lean ====
section
/-! DEFINITION. The stack-control instructions, formats STCi and STCr (48_stack_control R330 to R339). -/
namespace Sys2Proof.Machine

/-- Reserve `n` bytes, and spill what then exceeds the stack cache (48_stack_control R334). -/
def State.reserve (s : State) (n : Word) : Result :=
  if !s.stackReady then .refused .stackPointers
  else if s.cfg.scSize < n.toNat then .refused .stackSize
  else
    transferred
      (State.spillWords ((s.occupancy + n.toNat - s.cfg.scSize) / 4)
        { s with sp := { s.sp with st := s.sp.st - n } })

/-- Ensure that `n` bytes are valid, filling what is missing (48_stack_control R335, R338). -/
def State.ensure (s : State) (n : Word) : Result :=
  if !s.stackReady then .refused .stackPointers
  else if n.toNat % 4 ≠ 0 || s.cfg.scSize < n.toNat then .refused .stackSize
  else transferred (State.fillWords ((n.toNat - s.occupancy) / 4) s)

/-- Free `n` bytes; `ss` follows `st` if all that was resident is freed (48_stack_control R336). -/
def State.free (s : State) (n : Word) : Result :=
  if !s.stackReady then .refused .stackPointers
  else if 2 ^ 32 ≤ s.sp.st.toNat + n.toNat then .refused .stackWrap
  else
    .next { s with sp := { s.sp with
                             st := s.sp.st + n
                             ss := if s.sp.ss.toNat < (s.sp.st + n).toNat then s.sp.st + n else s.sp.ss } }

/-- Spill the `n` bytes next to `ss` (48_stack_control R337, R339). -/
def State.spillTail (s : State) (n : Word) : Result :=
  if !s.stackReady then .refused .stackPointers
  else if n.toNat % 4 ≠ 0 || s.occupancy < n.toNat then .refused .stackSize
  else transferred (State.spillWords (n.toNat / 4) s)

/-- `sres`: reserve words, immediate in words (48_stack_control R334). -/
def execSres (g : PredOp) (imm : BitVec 18) (s : State) : Result :=
  s.guarded g (s.reserve (stackBytes imm))

/-- `sens`: ensure words, immediate in words (48_stack_control R335). -/
def execSens (g : PredOp) (imm : BitVec 18) (s : State) : Result :=
  s.guarded g (s.ensure (stackBytes imm))

/-- `sfree`: free words, immediate in words (48_stack_control R336). -/
def execSfree (g : PredOp) (imm : BitVec 18) (s : State) : Result :=
  s.guarded g (s.free (stackBytes imm))

/-- `sspill`: spill the tail, immediate in words (48_stack_control R337). -/
def execSspill (g : PredOp) (imm : BitVec 18) (s : State) : Result :=
  s.guarded g (s.spillTail (stackBytes imm))

/-- `sens`: ensure words, register in bytes (48_stack_control R338). -/
def execSensR (g : PredOp) (rs : GReg) (s : State) : Result :=
  s.guarded g (s.use rs fun n => s.ensure n)

/-- `sspill`: spill the tail, register in bytes (48_stack_control R339). -/
def execSspillR (g : PredOp) (rs : GReg) (s : State) : Result :=
  s.guarded g (s.use rs fun n => s.spillTail n)

end Sys2Proof.Machine
end

