-- ==== Sys2Proof/Machine/Stores.lean ====
section
/-! DEFINITION. The typed stores, format STT (47_store R310 to R325). -/
namespace Sys2Proof.Machine

/-- A typed store of one size to one memory (47_store R311 to R313). -/
def storeTyped (space : Space) (size : Size) (g : PredOp) (ra rs : GReg) (imm : BitVec 7) (s : State) : Result :=
  s.guarded g
    (s.use ra fun b => s.use rs fun v =>
      match s.storeTo space (effective b size imm) size v with
      | .done t => .next t
      | .fault => s.illegalAccess
      | .hang => .fault .deviceHang
      | .refuse why => .refused why)

/-- `sws`: word to the stack cache (47_store R314). -/
def execSws (g : PredOp) (ra rs : GReg) (imm : BitVec 7) (s : State) : Result :=
  storeTyped .sc .word g ra rs imm s

/-- `swl`: word to local memory (47_store R315). -/
def execSwl (g : PredOp) (ra rs : GReg) (imm : BitVec 7) (s : State) : Result :=
  storeTyped .lm .word g ra rs imm s

/-- `swc`: word to global memory through the data cache (47_store R316). -/
def execSwc (g : PredOp) (ra rs : GReg) (imm : BitVec 7) (s : State) : Result :=
  storeTyped .dc .word g ra rs imm s

/-- `swm`: word to global memory past the data cache (47_store R317). -/
def execSwm (g : PredOp) (ra rs : GReg) (imm : BitVec 7) (s : State) : Result :=
  storeTyped .gm .word g ra rs imm s

/-- `shs`: half-word to the stack cache (47_store R318). -/
def execShs (g : PredOp) (ra rs : GReg) (imm : BitVec 7) (s : State) : Result :=
  storeTyped .sc .half g ra rs imm s

/-- `shl`: half-word to local memory (47_store R319). -/
def execShl (g : PredOp) (ra rs : GReg) (imm : BitVec 7) (s : State) : Result :=
  storeTyped .lm .half g ra rs imm s

/-- `shc`: half-word to global memory through the data cache (47_store R320). -/
def execShc (g : PredOp) (ra rs : GReg) (imm : BitVec 7) (s : State) : Result :=
  storeTyped .dc .half g ra rs imm s

/-- `shm`: half-word to global memory past the data cache (47_store R321). -/
def execShm (g : PredOp) (ra rs : GReg) (imm : BitVec 7) (s : State) : Result :=
  storeTyped .gm .half g ra rs imm s

/-- `sbs`: byte to the stack cache (47_store R322). -/
def execSbs (g : PredOp) (ra rs : GReg) (imm : BitVec 7) (s : State) : Result :=
  storeTyped .sc .byte g ra rs imm s

/-- `sbl`: byte to local memory (47_store R323). -/
def execSbl (g : PredOp) (ra rs : GReg) (imm : BitVec 7) (s : State) : Result :=
  storeTyped .lm .byte g ra rs imm s

/-- `sbc`: byte to global memory through the data cache (47_store R324). -/
def execSbc (g : PredOp) (ra rs : GReg) (imm : BitVec 7) (s : State) : Result :=
  storeTyped .dc .byte g ra rs imm s

/-- `sbm`: byte to global memory past the data cache (47_store R325). -/
def execSbm (g : PredOp) (ra rs : GReg) (imm : BitVec 7) (s : State) : Result :=
  storeTyped .gm .byte g ra rs imm s

end Sys2Proof.Machine
end

