-- ==== Sys2Proof/Machine/Dispatch.lean ====
section
/-! DEFINITION. One arm for each instruction, in the opcode table's order: its meaning, for an instruction in the
first slot of its bundle. -/
namespace Sys2Proof.Machine

def exec (i : Instr) (s : State) : Host.Outcome State Fault Refusal :=
  match i with
  | .add g rd rs1 rs2 => Sys2Proof.Machine.execAdd g rd rs1 rs2 s
  | .sub g rd rs1 rs2 => Sys2Proof.Machine.execSub g rd rs1 rs2 s
  | .xor g rd rs1 rs2 => Sys2Proof.Machine.execXor g rd rs1 rs2 s
  | .sl g rd rs1 rs2 => Sys2Proof.Machine.execSl g rd rs1 rs2 s
  | .sr g rd rs1 rs2 => Sys2Proof.Machine.execSr g rd rs1 rs2 s
  | .sra g rd rs1 rs2 => Sys2Proof.Machine.execSra g rd rs1 rs2 s
  | .or g rd rs1 rs2 => Sys2Proof.Machine.execOr g rd rs1 rs2 s
  | .and g rd rs1 rs2 => Sys2Proof.Machine.execAnd g rd rs1 rs2 s
  | .nor g rd rs1 rs2 => Sys2Proof.Machine.execNor g rd rs1 rs2 s
  | .shadd g rd rs1 rs2 => Sys2Proof.Machine.execShadd g rd rs1 rs2 s
  | .shadd2 g rd rs1 rs2 => Sys2Proof.Machine.execShadd2 g rd rs1 rs2 s
  | .addi g rd rs1 imm => Sys2Proof.Machine.execAddi g rd rs1 imm s
  | .subi g rd rs1 imm => Sys2Proof.Machine.execSubi g rd rs1 imm s
  | .xori g rd rs1 imm => Sys2Proof.Machine.execXori g rd rs1 imm s
  | .sli g rd rs1 imm => Sys2Proof.Machine.execSli g rd rs1 imm s
  | .sri g rd rs1 imm => Sys2Proof.Machine.execSri g rd rs1 imm s
  | .srai g rd rs1 imm => Sys2Proof.Machine.execSrai g rd rs1 imm s
  | .ori g rd rs1 imm => Sys2Proof.Machine.execOri g rd rs1 imm s
  | .andi g rd rs1 imm => Sys2Proof.Machine.execAndi g rd rs1 imm s
  | .addl g rd rs1 imm => Sys2Proof.Machine.execAddl g rd rs1 imm s
  | .subl g rd rs1 imm => Sys2Proof.Machine.execSubl g rd rs1 imm s
  | .xorl g rd rs1 imm => Sys2Proof.Machine.execXorl g rd rs1 imm s
  | .sll g rd rs1 imm => Sys2Proof.Machine.execSll g rd rs1 imm s
  | .srl g rd rs1 imm => Sys2Proof.Machine.execSrl g rd rs1 imm s
  | .sral g rd rs1 imm => Sys2Proof.Machine.execSral g rd rs1 imm s
  | .orl g rd rs1 imm => Sys2Proof.Machine.execOrl g rd rs1 imm s
  | .andl g rd rs1 imm => Sys2Proof.Machine.execAndl g rd rs1 imm s
  | .norl g rd rs1 imm => Sys2Proof.Machine.execNorl g rd rs1 imm s
  | .shaddl g rd rs1 imm => Sys2Proof.Machine.execShaddl g rd rs1 imm s
  | .shadd2l g rd rs1 imm => Sys2Proof.Machine.execShadd2l g rd rs1 imm s
  | .mul g rs1 rs2 => Sys2Proof.Machine.execMul g rs1 rs2 s
  | .mulu g rs1 rs2 => Sys2Proof.Machine.execMulu g rs1 rs2 s
  | .cmpeq g pd rs1 rs2 => Sys2Proof.Machine.execCmpeq g pd rs1 rs2 s
  | .cmpneq g pd rs1 rs2 => Sys2Proof.Machine.execCmpneq g pd rs1 rs2 s
  | .cmplt g pd rs1 rs2 => Sys2Proof.Machine.execCmplt g pd rs1 rs2 s
  | .cmple g pd rs1 rs2 => Sys2Proof.Machine.execCmple g pd rs1 rs2 s
  | .cmpult g pd rs1 rs2 => Sys2Proof.Machine.execCmpult g pd rs1 rs2 s
  | .cmpule g pd rs1 rs2 => Sys2Proof.Machine.execCmpule g pd rs1 rs2 s
  | .btest g pd rs1 rs2 => Sys2Proof.Machine.execBtest g pd rs1 rs2 s
  | .cmpeqi g pd rs1 imm => Sys2Proof.Machine.execCmpeqi g pd rs1 imm s
  | .cmpneqi g pd rs1 imm => Sys2Proof.Machine.execCmpneqi g pd rs1 imm s
  | .cmplti g pd rs1 imm => Sys2Proof.Machine.execCmplti g pd rs1 imm s
  | .cmplei g pd rs1 imm => Sys2Proof.Machine.execCmplei g pd rs1 imm s
  | .cmpulti g pd rs1 imm => Sys2Proof.Machine.execCmpulti g pd rs1 imm s
  | .cmpulei g pd rs1 imm => Sys2Proof.Machine.execCmpulei g pd rs1 imm s
  | .btesti g pd rs1 imm => Sys2Proof.Machine.execBtesti g pd rs1 imm s
  | .por g pd ps1 ps2 => Sys2Proof.Machine.execPor g pd ps1 ps2 s
  | .pand g pd ps1 ps2 => Sys2Proof.Machine.execPand g pd ps1 ps2 s
  | .pxor g pd ps1 ps2 => Sys2Proof.Machine.execPxor g pd ps1 ps2 s
  | .bcopy g rd rs1 imm ps => Sys2Proof.Machine.execBcopy g rd rs1 imm ps s
  | .mts g sd rs1 => Sys2Proof.Machine.execMts g sd rs1 s
  | .mfs g rd ss => Sys2Proof.Machine.execMfs g rd ss s
  | .lws g rd ra imm => Sys2Proof.Machine.execLws g rd ra imm s
  | .lwl g rd ra imm => Sys2Proof.Machine.execLwl g rd ra imm s
  | .lwc g rd ra imm => Sys2Proof.Machine.execLwc g rd ra imm s
  | .lwm g rd ra imm => Sys2Proof.Machine.execLwm g rd ra imm s
  | .lhs g rd ra imm => Sys2Proof.Machine.execLhs g rd ra imm s
  | .lhl g rd ra imm => Sys2Proof.Machine.execLhl g rd ra imm s
  | .lhc g rd ra imm => Sys2Proof.Machine.execLhc g rd ra imm s
  | .lhm g rd ra imm => Sys2Proof.Machine.execLhm g rd ra imm s
  | .lbs g rd ra imm => Sys2Proof.Machine.execLbs g rd ra imm s
  | .lbl g rd ra imm => Sys2Proof.Machine.execLbl g rd ra imm s
  | .lbc g rd ra imm => Sys2Proof.Machine.execLbc g rd ra imm s
  | .lbm g rd ra imm => Sys2Proof.Machine.execLbm g rd ra imm s
  | .lhus g rd ra imm => Sys2Proof.Machine.execLhus g rd ra imm s
  | .lhul g rd ra imm => Sys2Proof.Machine.execLhul g rd ra imm s
  | .lhuc g rd ra imm => Sys2Proof.Machine.execLhuc g rd ra imm s
  | .lhum g rd ra imm => Sys2Proof.Machine.execLhum g rd ra imm s
  | .lbus g rd ra imm => Sys2Proof.Machine.execLbus g rd ra imm s
  | .lbul g rd ra imm => Sys2Proof.Machine.execLbul g rd ra imm s
  | .lbuc g rd ra imm => Sys2Proof.Machine.execLbuc g rd ra imm s
  | .lbum g rd ra imm => Sys2Proof.Machine.execLbum g rd ra imm s
  | .sws g ra rs imm => Sys2Proof.Machine.execSws g ra rs imm s
  | .swl g ra rs imm => Sys2Proof.Machine.execSwl g ra rs imm s
  | .swc g ra rs imm => Sys2Proof.Machine.execSwc g ra rs imm s
  | .swm g ra rs imm => Sys2Proof.Machine.execSwm g ra rs imm s
  | .shs g ra rs imm => Sys2Proof.Machine.execShs g ra rs imm s
  | .shl g ra rs imm => Sys2Proof.Machine.execShl g ra rs imm s
  | .shc g ra rs imm => Sys2Proof.Machine.execShc g ra rs imm s
  | .shm g ra rs imm => Sys2Proof.Machine.execShm g ra rs imm s
  | .sbs g ra rs imm => Sys2Proof.Machine.execSbs g ra rs imm s
  | .sbl g ra rs imm => Sys2Proof.Machine.execSbl g ra rs imm s
  | .sbc g ra rs imm => Sys2Proof.Machine.execSbc g ra rs imm s
  | .sbm g ra rs imm => Sys2Proof.Machine.execSbm g ra rs imm s
  | .sres g imm => Sys2Proof.Machine.execSres g imm s
  | .sens g imm => Sys2Proof.Machine.execSens g imm s
  | .sfree g imm => Sys2Proof.Machine.execSfree g imm s
  | .sspill g imm => Sys2Proof.Machine.execSspill g imm s
  | .sensR g rs => Sys2Proof.Machine.execSensR g rs s
  | .sspillR g rs => Sys2Proof.Machine.execSspillR g rs s
  | .callnd g imm => Sys2Proof.Machine.execCallnd g imm s
  | .call g imm => Sys2Proof.Machine.execCall g imm s
  | .brnd g imm => Sys2Proof.Machine.execBrnd g imm s
  | .br g imm => Sys2Proof.Machine.execBr g imm s
  | .brcfnd g imm => Sys2Proof.Machine.execBrcfnd g imm s
  | .brcf g imm => Sys2Proof.Machine.execBrcf g imm s
  | .retnd g => Sys2Proof.Machine.execRetnd g s
  | .ret g => Sys2Proof.Machine.execRet g s
  | .xretnd g => Sys2Proof.Machine.execXretnd g s
  | .xret g => Sys2Proof.Machine.execXret g s
  | .callndR g rs => Sys2Proof.Machine.execCallndR g rs s
  | .callR g rs => Sys2Proof.Machine.execCallR g rs s
  | .brndR g rs => Sys2Proof.Machine.execBrndR g rs s
  | .brR g rs => Sys2Proof.Machine.execBrR g rs s
  | .brcfndR g rs1 rs2 => Sys2Proof.Machine.execBrcfndR g rs1 rs2 s
  | .brcfR g rs1 rs2 => Sys2Proof.Machine.execBrcfR g rs1 rs2 s
  | .trap g imm => Sys2Proof.Machine.execTrap g imm s

end Sys2Proof.Machine
end

