-- ==== Sys2Proof/Machine/Bundle.lean ====
section
/-! DEFINITION. One bundle: fetching and decoding it, executing its one or two instructions, what its end does, and
when an interrupt is taken instead (30_encoding R121, R127; 49_control_flow R352; 60_exceptions R412 to R417). -/
namespace Sys2Proof.Machine

/-- The state in which the instructions of a bundle of `len` bytes execute (49_control_flow R352: `next <- pc + len`). -/
def State.begin (s : State) (len : Word) : State := { s with nextPc := s.pc + len, excEntered := false }

/-- Is the instruction enabled, its guard true (30_encoding R125)? -/
def State.enables (s : State) (i : Instr) : Bool := s.ps i.guard

/-- Do two enabled instructions of one bundle write one register or predicate (10_state R42)? `mts s0` writes all of
p1 to p7. -/
def State.twoWriters (s : State) (i j : Instr) : Bool :=
  s.enables i && s.enables j &&
    (i.sharesDestination j || (i.destSpecial == some 0 && j.destPred.isSome && j.destPred != some 0))

/-- The first instruction's result with the second's joined to it: a second-slot instruction writes one register or
one predicate at most (30_encoding R126, R127). -/
def joinSecond (enabled : Bool) (j : Instr) (t u : State) : State :=
  if enabled then
    match j.destReg, j.destPred with
    | some rd, _ => t.setReg rd (u.reg rd)
    | none, some pd => t.setPred pd (u.pred pd)
    | none, none => t
  else t

/-- Two instructions issued together: both read the state before the bundle, both write at its end; if the first
enters a handler, neither writes (30_encoding R127, 60_exceptions R414). Two enabled writers of one destination are
refused before anything else (10_state R42). -/
def execPair (i j : Instr) (s : State) : Result :=
  need (!s.twoWriters i j) .twoWriters
    (match exec i s with
     | .next t =>
       if t.excEntered then .next t
       else
         match exec j s with
         | .next u => .next (joinSecond (s.enables j) j t u)
         | other => other
     | other => other)

/-- An instruction word that does not decode: if enabled the bundle raises `IllegalOperation`, else it is a disabled
instruction (30_encoding R125, R150). -/
def State.enablesIllegal (s : State) (w : Word) (d : Except Illegal Instr) : Bool :=
  match d with
  | .ok _ => false
  | .error _ => s.ps (guardOf w)

/-- A bundle of one instruction: one word, or an ALUl word and its long immediate (30_encoding R121). -/
def runOne (s : State) (w long : Word) : Result :=
  match decode w long with
  | .ok i => exec i s
  | .error _ => if s.ps (guardOf w) then s.illegalOperation else .next s

/-- A bundle of two instructions (30_encoding R121, R126, R127; 60_exceptions R412; log entry 12). -/
def runTwo (s : State) (w0 w1 : Word) : Result :=
  if !s.cfg.dualIssue then .refused .singleIssue
  else if (match formatOf w1 with | some f => !s.cfg.allowsSecond f | none => false) then
    .refused .secondSlotFormat
  else if s.enablesIllegal w0 (decode w0 0) || s.enablesIllegal w1 (decode w1 0) then s.illegalOperation
  else
    match decode w0 0, decode w1 0 with
    | .ok i, .ok j => execPair i j s
    | .ok i, .error _ => exec i s
    | .error _, .ok j => exec j s
    | .error _, .error _ => .next s

/-- Is the bundle's first instruction an enabled instruction of this format? -/
def State.issues (s : State) (w long : Word) (f : Format) : Bool :=
  match decode w long with
  | .ok i => i.format == f && s.enables i
  | .error _ => false

/-- What the end of a bundle does to the load mark and the multiply window (46_load R282, 41_multiply R222): a mark set
by this bundle's own load stays, any other ends; a window opened by this bundle's own multiply stays whole, any other
shrinks by one bundle, also at a fault or trap (log entry 30). -/
def State.endWindows (s : State) (loaded multiplied : Bool) (before : Nat) : State :=
  { s with loadShadow := if loaded && !s.excEntered then s.loadShadow else none
           mulShadow := if multiplied && !s.excEntered then s.mulShadow else before - 1 }

/-- A boundary between bundles: `pc` is the next bundle's address (49_control_flow R352; log entry 13). -/
def State.boundary (s : State) (next : Word) : State :=
  { s with pc := next, nextPc := next + 4, excEntered := false }

/-- The end of a bundle that was executed while `was` was pending: one delay slot less, and at none left the transfer
happens (49_control_flow R352). A handler that was entered stands at its own address. -/
def State.advance (s : State) (was : Option Pending) : Result :=
  if s.excEntered then .next (s.boundary s.pc)
  else
    match was with
    | none => .next (s.boundary s.nextPc)
    | some p =>
      if p.remaining ≤ 1 then
        match s.complete p with
        | .entered t => .next ({ t with pending := none }.boundary p.target)
        | .fault => .refused .faultInDelaySlot
        | .refuse why => .refused why
      else .next ({ s with pending := some { p with remaining := p.remaining - 1 } }.boundary s.nextPc)

/-- From the result of a bundle's instructions, executed from `s`, to the state at the next boundary. -/
def State.finish (s : State) (loaded multiplied : Bool) : Result → Result
  | .next t => (t.endWindows loaded multiplied s.mulShadow).advance s.pending
  | other => other

/-- A bundle whose words are known (30_encoding R121). -/
def runWords (s : State) (w0 : Word) (second : Option Word) : Result :=
  match second with
  | none =>
    (s.begin 4).finish ((s.begin 4).issues w0 0 .ldt) ((s.begin 4).issues w0 0 .aluM) (runOne (s.begin 4) w0 0)
  | some w1 =>
    if formatOf w0 = some .aluL then (s.begin 8).finish false false (runOne (s.begin 8) w0 w1)
    else
      (s.begin 8).finish ((s.begin 8).issues w0 0 .ldt) ((s.begin 8).issues w0 0 .aluM)
        (runTwo (s.begin 8) w0 w1)

/-- A fetch the MMU does not permit raises `IllegalMemoryAccess` (20_memory R101, R102). -/
def State.fetchFault (s : State) : Result :=
  (s.begin 4).finish false false (s.begin 4).illegalAccess

/-- A fetch of the second word that the MMU does not permit; if the first word is an enabled illegal instruction the
bundle reports that (60_exceptions R402 c). -/
def State.secondFetchFault (s : State) (w0 : Word) : Result :=
  if (s.begin 8).enablesIllegal w0 (decode w0 0) then (s.begin 8).finish false false (s.begin 8).illegalOperation
  else s.fetchFault

/-- Fetch and execute the bundle at `pc`, in an entered block (30_encoding R121, 49_control_flow R352). -/
def State.runEntered (s : State) : Result :=
  match s.fetchWord s.pc with
  | .refuse why => .refused why
  | .fault => s.fetchFault
  | .word w0 =>
    if sizeFlag w0 then
      match s.fetchWord (s.pc + 4) with
      | .refuse why => .refused why
      | .fault => s.secondFetchFault w0
      | .word w1 => runWords s w0 (some w1)
    else runWords s w0 none

/-- Fetch and execute the bundle at `pc`; the first one after reset enters its block before (log entry 15). -/
def State.runBundle (s : State) : Result :=
  match s.settle with
  | .entered t => t.runEntered
  | .fault => s.fetchFault
  | .refuse why => .refused why

/-! ### Interrupts (60_exceptions R416, R417) -/

/-- Is interrupt `i` requested and unmasked? -/
def State.wants (s : State) (i : Fin 16) : Bool :=
  (s.exc.pend &&& s.exc.mask).getLsbD (s.cfg.intrBit i.val)

/-- The interrupt to take at this boundary: the lowest-numbered one requested, if interrupts are enabled, no transfer
is pending and no multiply is in flight. -/
def State.dueInterrupt (s : State) : Option (Fin 16) :=
  if s.exc.status.getLsbD 0 && s.pending.isNone && s.mulShadow == 0 then (List.finRange 16).find? s.wants else none

/-- Taking interrupt `i` is a step of its own. -/
def State.enterInterrupt (s : State) (i : Fin 16) : Result :=
  match s.takeInterrupt i (s.cfg.intrBit i.val) with
  | .next t => .next (t.boundary t.pc)
  | other => other

/-- One step without the time it takes. In a sleeping core no bundle executes and all state is kept
(60_exceptions R408). -/
def State.act (s : State) : Result :=
  match s.dueInterrupt with
  | some i => s.enterInterrupt i
  | none => if s.sleeping then .next s else s.runBundle

/-- The time that a step takes passes at its end (60_exceptions R444). -/
def ticked : Result → Result
  | .next t => .next t.tick
  | other => other

/-! ### Placing an instruction -/

/-- One byte placed in the memory that a fetch at the code address `a` reads; nothing is stale there. -/
def State.placeCode (s : State) (a : Word) (b : Byte) : State :=
  if a.toNat < 0x10000 then { s with mem := { s.mem with bootRom := s.mem.bootRom.write a.toNat b } }
  else if a.toNat < externalCode then
    { s with mem := { s.mem with ispm := s.mem.ispm.write (a.toNat - 0x10000) b }
             marks := { s.marks with ispmStale := s.marks.ispmStale.write (a.toNat - 0x10000) 0 } }
  else
    let pa := ((s.translate .execute a).getD a).toNat
    { s with mem := { s.mem with gm := s.mem.gm.write pa b }
             marks := { s.marks with icStale := s.marks.icStale.write pa 0 } }

/-- Bytes placed from the code address `a` up. -/
def State.placeBytes : State → Word → List Byte → State
  | s, a, b :: bs => State.placeBytes (s.placeCode a b) (a + 1) bs
  | s, _, [] => s

/-- Nothing stands between this state and the fetch at `pc`: no interrupt is due, the core is awake, and the current
block reaches to the end of the bundle. -/
def State.readyToFetch (s : State) : State :=
  { s with sleeping := false
           exc := { s.exc with pend := if s.dueInterrupt.isSome then 0 else s.exc.pend }
           blockSize :=
             if !s.unentered && s.leavesBlock s.pc = none && s.leavesBlock (s.pc + 4) = none then s.blockSize
             else some (s.pc + 8 - s.base) }

end Sys2Proof.Machine
end

