-- ==== Sys2Proof/Machine/Step.lean ====
section
/-! DEFINITION. One step of the machine: an interrupt is taken, or a sleeping core lets time pass, or the bundle at
`pc` is executed (49_control_flow R352, 60_exceptions R408, R416). And how the host places an instruction. -/
namespace Sys2Proof.Machine

/-- One step. -/
def step (s : State) : Host.Outcome State Fault Refusal := ticked s.act

/-- `s` with the instruction whose bits are `w` (numbered as spec/opcode_table.json numbers them) stored where `step`
fetches its next one, and nothing in the way of the fetch (log entry 11). -/
def State.withFetchWord (s : State) (nbits w : Nat) : State :=
  (s.placeBytes s.pc (tableBytes nbits w)).readyToFetch

end Sys2Proof.Machine
end

