-- ==== Sys2Proof/Safety.lean ====
section
/-! DEFINITION. The terms of the claims: the invariant of the machine, and what the statements about encodings,
instructions, blocks and exceptions speak of. -/
namespace Sys2Proof

/-! ### Terms of the statements about encodings and formats -/

/-- A control-flow instruction (49_control_flow R350). -/
abbrev Instr.transfers (i : Instr) : Prop :=
  i.format = .cflI ∨ i.format = .cflRi ∨ i.format = .cflRs ∨ i.format = .cflRt

/-- A return from an exception (60_exceptions R422). -/
abbrev Instr.isXret : Instr → Bool
  | .xret _ => true
  | .xretnd _ => true
  | _ => false

/-- A non-delayed call, which writes the return information when it executes (49_control_flow R355). -/
abbrev Instr.isCallnd : Instr → Bool
  | .callnd _ _ => true
  | .callndR _ _ => true
  | _ => false

/-- A word of the list of illegal encodings (30_encoding R150). -/
def illegalWord (w : Word) : Prop :=
  let major := bits w 22 5
  let opc := bits w 4 3
  let func := bits w 0 4
  (major = 13 ∨ major = 14 ∨ major = 15 ∨ major = 26 ∨ major = 27 ∨ major = 28 ∨ major = 29 ∨ major = 30) ∨
  (major = 8 ∧ (opc = 1 ∨ opc = 7)) ∨
  (major = 9 ∧ opc ≠ 2 ∧ opc ≠ 3) ∨
  (major = 8 ∧ opc = 0 ∧ (func = 8 ∨ func = 9 ∨ func = 10 ∨ func = 14 ∨ func = 15)) ∨
  (major = 31 ∧ (func = 8 ∨ func = 9 ∨ func = 10 ∨ func = 14 ∨ func = 15)) ∨
  (major = 31 ∧ (opc ≠ 0 ∨ bits w 31 1 = 0)) ∨
  (major = 8 ∧ opc = 2 ∧ 2 ≤ func) ∨
  (major = 8 ∧ (opc = 3 ∨ opc = 6) ∧ 7 ≤ func) ∨
  (major = 8 ∧ opc = 4 ∧ func ≠ 6 ∧ func ≠ 7 ∧ func ≠ 10) ∨
  (major = 10 ∧ 20 ≤ bits w 7 5) ∨
  (major = 11 ∧ 12 ≤ bits w 17 5) ∨
  (major = 12 ∧ (bits w 18 2 = 2 ∨ bits w 18 2 = 3)) ∨
  (major = 12 ∧ bits w 18 2 = 1 ∧ (bits w 20 2 = 0 ∨ bits w 20 2 = 2)) ∨
  (major = 23) ∨
  ((major = 24 ∨ major = 25) ∧ bits w 2 2 = 3) ∨
  ((major = 24 ∨ major = 25) ∧ (bits w 2 2 = 0 ∨ bits w 2 2 = 1) ∧ (bits w 0 2 = 2 ∨ bits w 0 2 = 3)) ∨
  ((major = 24 ∨ major = 25) ∧ bits w 2 2 = 2 ∧ bits w 0 2 ≠ 2)

/-- The `match` and `mask` of an instruction's row in spec/opcode_table.json. -/
def Instr.row : Instr → Word × Word
  | .add _ _ _ _ => (0x02000000, 0x07c0007f)
  | .sub _ _ _ _ => (0x02000001, 0x07c0007f)
  | .xor _ _ _ _ => (0x02000002, 0x07c0007f)
  | .sl _ _ _ _ => (0x02000003, 0x07c0007f)
  | .sr _ _ _ _ => (0x02000004, 0x07c0007f)
  | .sra _ _ _ _ => (0x02000005, 0x07c0007f)
  | .or _ _ _ _ => (0x02000006, 0x07c0007f)
  | .and _ _ _ _ => (0x02000007, 0x07c0007f)
  | .nor _ _ _ _ => (0x0200000b, 0x07c0007f)
  | .shadd _ _ _ _ => (0x0200000c, 0x07c0007f)
  | .shadd2 _ _ _ _ => (0x0200000d, 0x07c0007f)
  | .addi _ _ _ _ => (0x00000000, 0x07c00000)
  | .subi _ _ _ _ => (0x00400000, 0x07c00000)
  | .xori _ _ _ _ => (0x00800000, 0x07c00000)
  | .sli _ _ _ _ => (0x00c00000, 0x07c00000)
  | .sri _ _ _ _ => (0x01000000, 0x07c00000)
  | .srai _ _ _ _ => (0x01400000, 0x07c00000)
  | .ori _ _ _ _ => (0x01800000, 0x07c00000)
  | .andi _ _ _ _ => (0x01c00000, 0x07c00000)
  | .addl _ _ _ _ => (0x87c00000, 0x87c0007f)
  | .subl _ _ _ _ => (0x87c00001, 0x87c0007f)
  | .xorl _ _ _ _ => (0x87c00002, 0x87c0007f)
  | .sll _ _ _ _ => (0x87c00003, 0x87c0007f)
  | .srl _ _ _ _ => (0x87c00004, 0x87c0007f)
  | .sral _ _ _ _ => (0x87c00005, 0x87c0007f)
  | .orl _ _ _ _ => (0x87c00006, 0x87c0007f)
  | .andl _ _ _ _ => (0x87c00007, 0x87c0007f)
  | .norl _ _ _ _ => (0x87c0000b, 0x87c0007f)
  | .shaddl _ _ _ _ => (0x87c0000c, 0x87c0007f)
  | .shadd2l _ _ _ _ => (0x87c0000d, 0x87c0007f)
  | .mul _ _ _ => (0x02000020, 0x07c0007f)
  | .mulu _ _ _ => (0x02000021, 0x07c0007f)
  | .cmpeq _ _ _ _ => (0x02000030, 0x07c0007f)
  | .cmpneq _ _ _ _ => (0x02000031, 0x07c0007f)
  | .cmplt _ _ _ _ => (0x02000032, 0x07c0007f)
  | .cmple _ _ _ _ => (0x02000033, 0x07c0007f)
  | .cmpult _ _ _ _ => (0x02000034, 0x07c0007f)
  | .cmpule _ _ _ _ => (0x02000035, 0x07c0007f)
  | .btest _ _ _ _ => (0x02000036, 0x07c0007f)
  | .cmpeqi _ _ _ _ => (0x02000060, 0x07c0007f)
  | .cmpneqi _ _ _ _ => (0x02000061, 0x07c0007f)
  | .cmplti _ _ _ _ => (0x02000062, 0x07c0007f)
  | .cmplei _ _ _ _ => (0x02000063, 0x07c0007f)
  | .cmpulti _ _ _ _ => (0x02000064, 0x07c0007f)
  | .cmpulei _ _ _ _ => (0x02000065, 0x07c0007f)
  | .btesti _ _ _ _ => (0x02000066, 0x07c0007f)
  | .por _ _ _ _ => (0x02000046, 0x07c0007f)
  | .pand _ _ _ _ => (0x02000047, 0x07c0007f)
  | .pxor _ _ _ _ => (0x0200004a, 0x07c0007f)
  | .bcopy _ _ _ _ _ => (0x02000050, 0x07c00070)
  | .mts _ _ _ => (0x02400020, 0x07c00070)
  | .mfs _ _ _ => (0x02400030, 0x07c00070)
  | .lws _ _ _ _ => (0x02800000, 0x07c00f80)
  | .lwl _ _ _ _ => (0x02800080, 0x07c00f80)
  | .lwc _ _ _ _ => (0x02800100, 0x07c00f80)
  | .lwm _ _ _ _ => (0x02800180, 0x07c00f80)
  | .lhs _ _ _ _ => (0x02800200, 0x07c00f80)
  | .lhl _ _ _ _ => (0x02800280, 0x07c00f80)
  | .lhc _ _ _ _ => (0x02800300, 0x07c00f80)
  | .lhm _ _ _ _ => (0x02800380, 0x07c00f80)
  | .lbs _ _ _ _ => (0x02800400, 0x07c00f80)
  | .lbl _ _ _ _ => (0x02800480, 0x07c00f80)
  | .lbc _ _ _ _ => (0x02800500, 0x07c00f80)
  | .lbm _ _ _ _ => (0x02800580, 0x07c00f80)
  | .lhus _ _ _ _ => (0x02800600, 0x07c00f80)
  | .lhul _ _ _ _ => (0x02800680, 0x07c00f80)
  | .lhuc _ _ _ _ => (0x02800700, 0x07c00f80)
  | .lhum _ _ _ _ => (0x02800780, 0x07c00f80)
  | .lbus _ _ _ _ => (0x02800800, 0x07c00f80)
  | .lbul _ _ _ _ => (0x02800880, 0x07c00f80)
  | .lbuc _ _ _ _ => (0x02800900, 0x07c00f80)
  | .lbum _ _ _ _ => (0x02800980, 0x07c00f80)
  | .sws _ _ _ _ => (0x02c00000, 0x07fe0000)
  | .swl _ _ _ _ => (0x02c20000, 0x07fe0000)
  | .swc _ _ _ _ => (0x02c40000, 0x07fe0000)
  | .swm _ _ _ _ => (0x02c60000, 0x07fe0000)
  | .shs _ _ _ _ => (0x02c80000, 0x07fe0000)
  | .shl _ _ _ _ => (0x02ca0000, 0x07fe0000)
  | .shc _ _ _ _ => (0x02cc0000, 0x07fe0000)
  | .shm _ _ _ _ => (0x02ce0000, 0x07fe0000)
  | .sbs _ _ _ _ => (0x02d00000, 0x07fe0000)
  | .sbl _ _ _ _ => (0x02d20000, 0x07fe0000)
  | .sbc _ _ _ _ => (0x02d40000, 0x07fe0000)
  | .sbm _ _ _ _ => (0x02d60000, 0x07fe0000)
  | .sres _ _ => (0x03000000, 0x07fc0000)
  | .sens _ _ => (0x03100000, 0x07fc0000)
  | .sfree _ _ => (0x03200000, 0x07fc0000)
  | .sspill _ _ => (0x03300000, 0x07fc0000)
  | .sensR _ _ => (0x03140000, 0x07fc0000)
  | .sspillR _ _ => (0x03340000, 0x07fc0000)
  | .callnd _ _ => (0x04000000, 0x07c00000)
  | .call _ _ => (0x04400000, 0x07c00000)
  | .brnd _ _ => (0x04800000, 0x07c00000)
  | .br _ _ => (0x04c00000, 0x07c00000)
  | .brcfnd _ _ => (0x05000000, 0x07c00000)
  | .brcf _ _ => (0x05400000, 0x07c00000)
  | .retnd _ => (0x06000000, 0x07c0000f)
  | .ret _ => (0x06400000, 0x07c0000f)
  | .xretnd _ => (0x06000001, 0x07c0000f)
  | .xret _ => (0x06400001, 0x07c0000f)
  | .callndR _ _ => (0x06000004, 0x07c0000f)
  | .callR _ _ => (0x06400004, 0x07c0000f)
  | .brndR _ _ => (0x06000005, 0x07c0000f)
  | .brR _ _ => (0x06400005, 0x07c0000f)
  | .brcfndR _ _ _ => (0x0600000a, 0x07c0000f)
  | .brcfR _ _ _ => (0x0640000a, 0x07c0000f)
  | .trap _ _ => (0x05800000, 0x07c00000)

end Sys2Proof

namespace Sys2Proof.Machine

/-- Every memory and every mark list is in canonical form. -/
def State.memoriesWf (s : State) : Prop :=
  s.sc.wf ∧ s.mem.gm.wf ∧ s.mem.dspm.wf ∧ s.mem.ispm.wf ∧ s.mem.bootRom.wf ∧ s.mem.bootData.wf ∧
    s.marks.dcStale.wf ∧ s.marks.dcDirty.wf ∧ s.marks.icStale.wf ∧ s.marks.ispmStale.wf

/-- A pending transfer has 1 to 3 delay slots left and a word-aligned target (49_control_flow R352, 20_memory R69). -/
def Pending.ok (p : Pending) : Prop := 1 ≤ p.remaining ∧ p.remaining ≤ 3 ∧ p.target.toNat % 4 = 0

/-- What holds between two bundles. -/
structure State.Inv (s : State) : Prop where
  /-- The memories are in canonical form. -/
  memories : s.memoriesWf
  /-- The program counter is word aligned (10_state R22). -/
  pcAligned : s.pc.toNat % 4 = 0
  /-- `nextPc` is the word after `pc`. -/
  nextAfterPc : s.nextPc = s.pc + 4
  /-- No handler is being entered. -/
  settled : s.excEntered = false
  /-- A pending transfer is as a delayed instruction makes it. -/
  pendingOk : ∀ p, s.pending = some p → p.ok
  /-- r0 is never marked as being loaded (46_load R282). -/
  shadowOk : s.loadShadow ≠ some 0
  /-- The multiply window is at most `MUL_DELAY` long (10_state R38). -/
  windowOk : s.mulShadow ≤ s.cfg.mulDelay

/-! ### Terms of the statements about instructions -/

/-- The guard is true and the registers named are not in their load delay slot (30_encoding R125, 46_load R282). -/
abbrev State.ready (s : State) (g : PredOp) (rs : List GReg) : Prop :=
  s.ps g = true ∧ ∀ r ∈ rs, s.shadowed r = false

/-- Every byte of every memory reads in `t` as it does in `s`. -/
structure SameBytes (s t : State) : Prop where
  gm : ∀ a, t.mem.gm.read a = s.mem.gm.read a
  dspm : ∀ a, t.mem.dspm.read a = s.mem.dspm.read a
  ispm : ∀ a, t.mem.ispm.read a = s.mem.ispm.read a
  bootRom : ∀ a, t.mem.bootRom.read a = s.mem.bootRom.read a
  bootData : ∀ a, t.mem.bootData.read a = s.mem.bootData.read a
  sc : ∀ a, t.sc.read a = s.sc.read a

/-- The memory `m'` is `m` but for the low `n` bytes of `v`, stored at the addresses `addr 0` to `addr (n - 1)`, the
most significant first (20_memory R66, R70). -/
structure Stored (m m' : Memory) (addr : Nat → Nat) (n : Nat) (v : Word) : Prop where
  bytes : ∀ k, k < n → m'.read (addr k) = v.extractLsb' (8 * (n - 1 - k)) 8
  others : ∀ a, (∀ k, k < n → a ≠ addr k) → m'.read a = m.read a

/-- The half-word whose bytes are `f 0` and `f 1` (20_memory R66). -/
abbrev bigHalf (f : Nat → Byte) : BitVec 16 := f 0 ++ f 1

/-- The word whose bytes are `f 0` to `f 3` (20_memory R66). -/
abbrev bigWord (f : Nat → Byte) : Word := f 0 ++ f 1 ++ f 2 ++ f 3

/-- The state after a load of `v` into `rd`: the register holds it and is marked for one bundle; r0 is neither written
nor marked (46_load R282, R284). -/
abbrev State.loaded (s : State) (rd : GReg) (v : Word) : State :=
  { s.setReg rd v with loadShadow := if rd = 0 then none else some rd }

/-- The global address `va` names the `n` existing bytes from physical address `pa` up, for this kind of access
(20_memory R63, R77, R101). -/
abbrev State.reaches (s : State) (k : AccessKind) (va : Word) (n pa : Nat) : Prop :=
  ∃ w, s.translate k va = some w ∧ w.toNat = pa ∧ pa < 0x80000000 ∧ pa + n ≤ s.cfg.memSize

/-- A local address that rules 20_memory R62 and R65 call unmapped: a hole, an absent device, the network-on-chip where
there is none (20_memory R77, 60_exceptions R439). -/
abbrev State.localUnmapped (s : State) (a : Word) : Prop :=
  (0x20000 ≤ a.toNat ∧ a.toNat < 0xe0000000) ∨ 0xf0100000 ≤ a.toNat ∨
    (0xe0000000 ≤ a.toNat ∧ a.toNat < 0xf0000000 ∧ s.cfg.devices.noc = false) ∨
    (0xf0000000 ≤ a.toNat ∧ a.toNat < 0xf0100000 ∧ s.cfg.deviceAt (Fin.ofNat 16 (a.toNat / 2 ^ 16)) = none)

/-- `a` is the local address of the register at `off` in the window of the device `d`, wherever the configuration puts
that device (20_memory R65, 60_exceptions R439). -/
abbrev State.registerAt (s : State) (d : Device) (off : Nat) (a : Word) : Prop :=
  ∃ k : Fin 16, s.cfg.deviceAt k = some d ∧ a.toNat = 0xf0000000 + k.val * 2 ^ 16 + off

/-- A global address that raises `IllegalMemoryAccess`: the MMU does not permit the access, or nothing is mapped at the
physical address (20_memory R63, R77, R101). -/
abbrev State.globalUnmapped (s : State) (k : AccessKind) (a : Word) : Prop :=
  s.translate k a = none ∨ ∃ w, s.translate k a = some w ∧ 0x80000000 ≤ w.toNat

/-- Exception entry `n` can enter its handler: the vector is word aligned and names a code block that can be entered
in privileged mode (60_exceptions R410, R420). -/
abbrev State.handlerReady (s : State) (n : Fin 32) : Prop :=
  ∃ u, ({ s with exc := { s.exc with status := (s.exc.status <<< 2) ||| 2 } } : State).enterBlock
    s.exc.vec[n] s.exc.vec[n] = .entered u

/-- `t` is `s` after exception entry with number `n` and return address `ret` (60_exceptions R420); the block size and
the marks of stored code are those of the entered block. -/
abbrev State.enteredHandler (s t : State) (n : Fin 32) (ret : Word) : Prop :=
  ∃ z m, t = { s with
    sp := { s.sp with sxb := s.base, sxo := ret - s.base }
    exc := { s.exc with status := (s.exc.status <<< 2) ||| 2, source := BitVec.ofNat 32 n.val }
    loadShadow := none
    excEntered := true
    base := s.exc.vec[n]
    pc := s.exc.vec[n]
    blockSize := z
    marks := m }

/-- `u` is `s` after the code block at `b` is entered (49_control_flow R354). -/
abbrev State.inBlockOf (s u : State) (b : Word) : Prop :=
  ∃ z m, u = { s with base := b, blockSize := z, marks := m }

end Sys2Proof.Machine
end

