-- ==== Sys2Proof/Certificates/Slice0/Obligations.lean ====
section
/-! DEFINITION. The statements for the provers. A statement about every state of which only states a run reaches are
of interest carries its premises itself; the invariant of the machine is `State.Inv`. -/
section
open Sys2Proof Sys2Proof.Machine

/-! ### Encoding -/

/-- Every instruction, with every operand at every value, is read back from its encoding, whatever bytes follow it
(30_encoding R129 to R147; 20_memory R67). -/
def Obligations.DecodeInvertsEncode : Prop :=
  ∀ (i : Instr) (rest : List Byte), decodeBytes (encodeBytes i ++ rest) = .ok (i, rest)

/-- The decoder reads an instruction from exactly the words that match its row of spec/opcode_table.json
(30_encoding R128 to R150). -/
def Obligations.DecodeFollowsOpcodeTable : Prop :=
  ∀ (w long : Word) (i : Instr),
    (decode w long = .ok i → w &&& i.row.2 = i.row.1) ∧
      (w &&& i.row.2 = i.row.1 → ∃ j, decode w long = .ok j ∧ j.row = i.row)

/-- The words that do not decode are those of the list of 30_encoding R150, the spec's own decision D4; enabled, such a
word raises `IllegalOperation` (60_exceptions R412); disabled, it does nothing (30_encoding R125). Beside another
instruction it raises that whatever the other does, also where the other would be refused, trap or write the same
destination: that order of the checks is the model's choice, log entry 19. The word of zeros is
`addi r0 = r0, 0`. -/
def Obligations.IllegalEncodings : Prop :=
  (∀ w long : Word, (∃ e, decode w long = .error e) ↔ illegalWord w) ∧
  (∀ (s : State) (w long : Word), illegalWord w → s.ps (guardOf w) = true → runOne s w long = s.illegalOperation) ∧
  (∀ (s : State) (w long : Word), illegalWord w → s.ps (guardOf w) = false → runOne s w long = .next s) ∧
  (∀ (s : State) (w0 w1 : Word), s.cfg.dualIssue = true →
    (∀ f, formatOf w1 = some f → s.cfg.allowsSecond f = true) →
    (illegalWord w0 ∧ s.ps (guardOf w0) = true ∨ illegalWord w1 ∧ s.ps (guardOf w1) = true) →
    runTwo s w0 w1 = s.illegalOperation) ∧
  (∀ long : Word, decode 0 long = .ok (.addi ⟨false, 0⟩ 0 0 0))

/-- One word of each of several formats, written out field by field as 30_encoding R129 to R147 lay them out, decodes
to the instruction the spec gives for it. -/
def Obligations.DecodeOfWrittenWords : Prop :=
  decode 0b0_0000_01000_00001_00010_00011_000_0000 0 = .ok (.add ⟨false, 0⟩ 1 2 3) ∧
  decode 0b0_0000_00001_00000_00000_000000000000 0 = .ok (.subi ⟨false, 0⟩ 0 0 0) ∧
  decode 0b1_0000_11111_00001_00010_00000_000_0000 0xdeadbeef = .ok (.addl ⟨false, 0⟩ 1 2 0xdeadbeef) ∧
  decode 0b0_0000_01000_00_001_00101_00000_011_0110 0 = .ok (.btest ⟨false, 0⟩ 1 5 0) ∧
  decode 0b0_0000_01000_00_001_0_1010_0_0011_100_0110 0 = .ok (.por ⟨false, 0⟩ 1 ⟨true, 2⟩ ⟨false, 3⟩) ∧
  decode 0b0_0000_01001_00000_10100_00000_010_0000 0 = .ok (.mts ⟨false, 0⟩ 0 20) ∧
  decode 0b0_0000_01010_00001_00010_00110_0000011 0 = .ok (.lhc ⟨false, 0⟩ 1 2 3) ∧
  decode 0b0_0000_01011_00001_00111_01001_0000000 0 = .ok (.swl ⟨false, 0⟩ 7 9 0) ∧
  decode 0b0_0000_01100_00_00_000000000000001010 0 = .ok (.sres ⟨false, 0⟩ 10) ∧
  decode 0b0_0001_10_01_1_1111111111111111111110 0 = .ok (.br ⟨false, 1⟩ (-2)) ∧
  decode 0b0_0000_1100_1_00000_00101_00110_000_10_10 0 = .ok (.brcfR ⟨false, 0⟩ 5 6)

/-! ### Guards, r0 and p0 -/

/-- A 4-bit predicate operand is the register its low three bits name, inverted if its top bit is set
(10_state R25). -/
def Obligations.PredicateOperandEncoding : Prop :=
  ∀ (s : State) (n : Fin 16),
    s.ps (.ofCode n.val) = Bool.xor (s.pred (Fin.ofNat 8 (n.val % 8))) (decide (8 ≤ n.val)) ∧
      PredOp.code (.ofCode n.val) = n.val

/-- r0 reads 0 and p0 reads 1, and a write to either is discarded; every other register and predicate reads what was
last written to it (10_state R21, R24). -/
def Obligations.ZeroRegisterAndTruePredicate : Prop :=
  ∀ (s : State) (r q : GReg) (v : Word) (p x : PReg) (b : Bool),
    s.reg 0 = 0 ∧ s.setReg 0 v = s ∧ s.pred 0 = true ∧ s.setPred 0 b = s ∧
      (s.setReg r v).reg q = (if q = r ∧ r ≠ 0 then v else s.reg q) ∧
      (s.setPred p b).pred x = (if x = p ∧ p ≠ 0 then b else s.pred x)

/-- An instruction whose guard is false changes nothing at all (30_encoding R125). -/
def Obligations.DisabledInstructionChangesNothing : Prop :=
  ∀ (i : Instr) (s : State), s.ps i.guard = false → exec i s = .next s

/-! ### Frames over all instructions -/

/-- An instruction leaves every general-purpose register but its destination as it was, and a bundle of two leaves all
but their two destinations; no instruction but a compare, a predicate combine and `mts` to s0 writes a predicate, and
the first two write only the one they name (10_state R21, R24). -/
def Obligations.RegistersAndPredicatesFrame : Prop :=
  (∀ (i : Instr) (s t : State), exec i s = .next t →
    (∀ q, i.destReg ≠ some q → t.reg q = s.reg q) ∧
    (∀ p, i.destPred ≠ some p → i.destSpecial ≠ some 0 → t.pred p = s.pred p)) ∧
  (∀ (i j : Instr) (s t : State), execPair i j s = .next t →
    (∀ q, i.destReg ≠ some q → j.destReg ≠ some q → t.reg q = s.reg q) ∧
    (∀ p, i.destPred ≠ some p → j.destPred ≠ some p → i.destSpecial ≠ some 0 → t.pred p = s.pred p))

/-- Only stores and stack control change a byte of any memory: after every other instruction, whatever it did besides,
every address of every memory reads as before (20_memory R70, R72). -/
def Obligations.MemoryFrame : Prop :=
  ∀ (i : Instr) (s t : State), exec i s = .next t → i.format ≠ .stt → i.format ≠ .stcI → i.format ≠ .stcR →
    SameBytes s t

/-- What instructions do to the special registers, the exception unit, the devices and the state of control, exception
entry apart: the special registers change by multiplies (`sl`, `sh`), `mts`, stack control (`ss`, `st`) and
non-delayed calls (`srb`, `sro`), and by no branch, return or delayed call; the exception unit by loads and stores and
by returns from exceptions; the devices and the MMU by loads and stores; where the machine goes, by control flow
(10_state R26; 60_exceptions R403; 49_control_flow R350). -/
def Obligations.SpecialAndControlFrame : Prop :=
  ∀ (i : Instr) (s t : State), exec i s = .next t → t.excEntered = false →
    (i.format ≠ .aluM → i.format ≠ .spcT → i.format ≠ .stcI → i.format ≠ .stcR → i.isCallnd = false →
      t.sp = s.sp) ∧
    (i.format = .aluM → t.sp = { s.sp with sl := t.sp.sl, sh := t.sp.sh }) ∧
    (i.format = .stcI ∨ i.format = .stcR → t.sp = { s.sp with ss := t.sp.ss, st := t.sp.st }) ∧
    (i.isCallnd = true → t.sp = { s.sp with srb := t.sp.srb, sro := t.sp.sro }) ∧
    (i.format ≠ .ldt → i.format ≠ .stt → i.isXret = false → t.exc = s.exc) ∧
    (i.format ≠ .ldt → i.format ≠ .stt → t.io = s.io ∧ t.mmu = s.mmu ∧ t.sleeping = s.sleeping) ∧
    (¬ i.transfers → t.base = s.base ∧ t.nextPc = s.nextPc ∧ t.blockSize = s.blockSize ∧ t.pending = s.pending) ∧
    (i.format ≠ .aluM → t.mulShadow = s.mulShadow) ∧ (i.format ≠ .ldt → t.loadShadow = s.loadShadow) ∧
    t.pc = s.pc ∧ t.cfg = s.cfg ∧ t.ticks = s.ticks

/-- In user mode no instruction changes a register of the exception unit, the local mode or the MMU, but by a return
from an exception, exception entry, or, for `pend`, the time that a load takes (60_exceptions R430, R431). -/
def Obligations.UserModeCannotConfigure : Prop :=
  ∀ (i : Instr) (s t : State), s.userMode = true → exec i s = .next t → t.excEntered = false → i.isXret = false →
    t.exc.status = s.exc.status ∧ t.exc.mask = s.exc.mask ∧ t.exc.source = s.exc.source ∧ t.exc.vec = s.exc.vec ∧
      t.exc.localMode = s.exc.localMode ∧ t.mmu = s.mmu ∧ t.sleeping = s.sleeping

/-- The configuration, the boot instruction ROM and the boot data ROM are the same after every step (00_scope R5;
20_memory R64; 60_exceptions R441). -/
def Obligations.StepKeepsConfigurationAndRoms : Prop :=
  ∀ s t : State, step s = .next t → t.cfg = s.cfg ∧ t.mem.bootRom = s.mem.bootRom ∧ t.mem.bootData = s.mem.bootData

/-! ### Arithmetic -/

/-- The eleven register forms of the arithmetic unit (40_alu R173 to R183). -/
def Obligations.AluRegisterResults : Prop :=
  ∀ (g : PredOp) (rd rs1 rs2 : GReg) (s : State), s.ready g [rs1, rs2, rd] →
    exec (.add g rd rs1 rs2) s = .next (s.setReg rd (s.reg rs1 + s.reg rs2)) ∧
    exec (.sub g rd rs1 rs2) s = .next (s.setReg rd (s.reg rs1 - s.reg rs2)) ∧
    exec (.xor g rd rs1 rs2) s = .next (s.setReg rd (s.reg rs1 ^^^ s.reg rs2)) ∧
    exec (.sl g rd rs1 rs2) s = .next (s.setReg rd (s.reg rs1 <<< ((s.reg rs2).toNat % 32))) ∧
    exec (.sr g rd rs1 rs2) s = .next (s.setReg rd (s.reg rs1 >>> ((s.reg rs2).toNat % 32))) ∧
    exec (.sra g rd rs1 rs2) s =
      .next (s.setReg rd (BitVec.ofInt 32 ((s.reg rs1).toInt / 2 ^ ((s.reg rs2).toNat % 32)))) ∧
    exec (.or g rd rs1 rs2) s = .next (s.setReg rd (s.reg rs1 ||| s.reg rs2)) ∧
    exec (.and g rd rs1 rs2) s = .next (s.setReg rd (s.reg rs1 &&& s.reg rs2)) ∧
    exec (.nor g rd rs1 rs2) s = .next (s.setReg rd (~~~(s.reg rs1 ||| s.reg rs2))) ∧
    exec (.shadd g rd rs1 rs2) s = .next (s.setReg rd (s.reg rs1 * 2 + s.reg rs2)) ∧
    exec (.shadd2 g rd rs1 rs2) s = .next (s.setReg rd (s.reg rs1 * 4 + s.reg rs2))

/-- The eight forms with a 12-bit immediate, zero-extended (40_alu R184 to R191). -/
def Obligations.AluImmediateResults : Prop :=
  ∀ (g : PredOp) (rd rs1 : GReg) (imm : BitVec 12) (s : State), s.ready g [rs1, rd] →
    exec (.addi g rd rs1 imm) s = .next (s.setReg rd (s.reg rs1 + BitVec.ofNat 32 imm.toNat)) ∧
    exec (.subi g rd rs1 imm) s = .next (s.setReg rd (s.reg rs1 - BitVec.ofNat 32 imm.toNat)) ∧
    exec (.xori g rd rs1 imm) s = .next (s.setReg rd (s.reg rs1 ^^^ BitVec.ofNat 32 imm.toNat)) ∧
    exec (.sli g rd rs1 imm) s = .next (s.setReg rd (s.reg rs1 <<< (imm.toNat % 32))) ∧
    exec (.sri g rd rs1 imm) s = .next (s.setReg rd (s.reg rs1 >>> (imm.toNat % 32))) ∧
    exec (.srai g rd rs1 imm) s =
      .next (s.setReg rd (BitVec.ofInt 32 ((s.reg rs1).toInt / 2 ^ (imm.toNat % 32)))) ∧
    exec (.ori g rd rs1 imm) s = .next (s.setReg rd (s.reg rs1 ||| BitVec.ofNat 32 imm.toNat)) ∧
    exec (.andi g rd rs1 imm) s = .next (s.setReg rd (s.reg rs1 &&& BitVec.ofNat 32 imm.toNat))

/-- The eleven forms with a 32-bit immediate (40_alu R192 to R202). -/
def Obligations.AluLongResults : Prop :=
  ∀ (g : PredOp) (rd rs1 : GReg) (imm : Word) (s : State), s.ready g [rs1, rd] →
    exec (.addl g rd rs1 imm) s = .next (s.setReg rd (s.reg rs1 + imm)) ∧
    exec (.subl g rd rs1 imm) s = .next (s.setReg rd (s.reg rs1 - imm)) ∧
    exec (.xorl g rd rs1 imm) s = .next (s.setReg rd (s.reg rs1 ^^^ imm)) ∧
    exec (.sll g rd rs1 imm) s = .next (s.setReg rd (s.reg rs1 <<< (imm.toNat % 32))) ∧
    exec (.srl g rd rs1 imm) s = .next (s.setReg rd (s.reg rs1 >>> (imm.toNat % 32))) ∧
    exec (.sral g rd rs1 imm) s =
      .next (s.setReg rd (BitVec.ofInt 32 ((s.reg rs1).toInt / 2 ^ (imm.toNat % 32)))) ∧
    exec (.orl g rd rs1 imm) s = .next (s.setReg rd (s.reg rs1 ||| imm)) ∧
    exec (.andl g rd rs1 imm) s = .next (s.setReg rd (s.reg rs1 &&& imm)) ∧
    exec (.norl g rd rs1 imm) s = .next (s.setReg rd (~~~(s.reg rs1 ||| imm))) ∧
    exec (.shaddl g rd rs1 imm) s = .next (s.setReg rd (s.reg rs1 * 2 + imm)) ∧
    exec (.shadd2l g rd rs1 imm) s = .next (s.setReg rd (s.reg rs1 * 4 + imm))

/-- A multiplication puts the exact 64-bit product of its operands, signed or unsigned, in `sh` and `sl`, opens the
multiply window, and changes nothing else (41_multiply R221 to R223). -/
def Obligations.MultiplyResults : Prop :=
  ∀ (g : PredOp) (rs1 rs2 : GReg) (s : State), s.ready g [rs1, rs2] →
    (∃ lo hi : Word, (hi ++ lo).toInt = (s.reg rs1).toInt * (s.reg rs2).toInt ∧
      exec (.mul g rs1 rs2) s =
        .next { s with sp := { s.sp with sl := lo, sh := hi }, mulShadow := s.cfg.mulDelay }) ∧
    (∃ lo hi : Word, (hi ++ lo).toNat = (s.reg rs1).toNat * (s.reg rs2).toNat ∧
      exec (.mulu g rs1 rs2) s =
        .next { s with sp := { s.sp with sl := lo, sh := hi }, mulShadow := s.cfg.mulDelay })

/-! ### Compares and predicates -/

/-- The compares of two registers; `btest` tests the bit for an index below 32 and is refused for any other
(42_compare R233 to R239). -/
def Obligations.CompareRegisterResults : Prop :=
  ∀ (g : PredOp) (pd : PReg) (rs1 rs2 : GReg) (s : State), s.ready g [rs1, rs2] →
    exec (.cmpeq g pd rs1 rs2) s = .next (s.setPred pd (decide (s.reg rs1 = s.reg rs2))) ∧
    exec (.cmpneq g pd rs1 rs2) s = .next (s.setPred pd (decide (s.reg rs1 ≠ s.reg rs2))) ∧
    exec (.cmplt g pd rs1 rs2) s = .next (s.setPred pd (decide ((s.reg rs1).toInt < (s.reg rs2).toInt))) ∧
    exec (.cmple g pd rs1 rs2) s = .next (s.setPred pd (decide ((s.reg rs1).toInt ≤ (s.reg rs2).toInt))) ∧
    exec (.cmpult g pd rs1 rs2) s = .next (s.setPred pd (decide ((s.reg rs1).toNat < (s.reg rs2).toNat))) ∧
    exec (.cmpule g pd rs1 rs2) s = .next (s.setPred pd (decide ((s.reg rs1).toNat ≤ (s.reg rs2).toNat))) ∧
    ((s.reg rs2).toNat < 32 →
      exec (.btest g pd rs1 rs2) s =
        .next (s.setPred pd (decide ((s.reg rs1).toNat / 2 ^ (s.reg rs2).toNat % 2 = 1)))) ∧
    (32 ≤ (s.reg rs2).toNat → exec (.btest g pd rs1 rs2) s = .refused .bitIndex)

/-- The compares with a 5-bit immediate; the spec's reading of the immediate as zero-extended is its decision D29
(42_compare R240 to R246; 30_encoding R136). -/
def Obligations.CompareImmediateResults : Prop :=
  ∀ (g : PredOp) (pd : PReg) (rs1 : GReg) (imm : BitVec 5) (s : State), s.ready g [rs1] →
    exec (.cmpeqi g pd rs1 imm) s = .next (s.setPred pd (decide ((s.reg rs1).toNat = imm.toNat))) ∧
    exec (.cmpneqi g pd rs1 imm) s = .next (s.setPred pd (decide ((s.reg rs1).toNat ≠ imm.toNat))) ∧
    exec (.cmplti g pd rs1 imm) s = .next (s.setPred pd (decide ((s.reg rs1).toInt < (imm.toNat : Int)))) ∧
    exec (.cmplei g pd rs1 imm) s = .next (s.setPred pd (decide ((s.reg rs1).toInt ≤ (imm.toNat : Int)))) ∧
    exec (.cmpulti g pd rs1 imm) s = .next (s.setPred pd (decide ((s.reg rs1).toNat < imm.toNat))) ∧
    exec (.cmpulei g pd rs1 imm) s = .next (s.setPred pd (decide ((s.reg rs1).toNat ≤ imm.toNat))) ∧
    exec (.btesti g pd rs1 imm) s =
      .next (s.setPred pd (decide ((s.reg rs1).toNat / 2 ^ imm.toNat % 2 = 1)))

/-- The predicate combines; and the bit copy, of whose result bit `Imm` is the predicate operand and every other bit
that of `Rs1` (43_predicate R252 to R254; 44_bitcopy R260). -/
def Obligations.PredicateCombineAndBitcopyResults : Prop :=
  (∀ (g : PredOp) (pd : PReg) (ps1 ps2 : PredOp) (s : State), s.ps g = true →
    exec (.por g pd ps1 ps2) s = .next (s.setPred pd (s.ps ps1 || s.ps ps2)) ∧
    exec (.pand g pd ps1 ps2) s = .next (s.setPred pd (s.ps ps1 && s.ps ps2)) ∧
    exec (.pxor g pd ps1 ps2) s = .next (s.setPred pd (s.ps ps1 != s.ps ps2))) ∧
  (∀ (g : PredOp) (rd rs1 : GReg) (imm : BitVec 5) (ps : PredOp) (s : State), s.ready g [rs1, rd] →
    ∃ v : Word, exec (.bcopy g rd rs1 imm ps) s = .next (s.setReg rd v) ∧
      ∀ k, k < 32 → v.getLsbD k = if k = imm.toNat then s.ps ps else (s.reg rs1).getLsbD k)

/-! ### Special registers -/

/-- s0: `mfs` reads bit i as predicate i and the other bits as 0; `mts` writes p1 to p7 from bits 1 to 7 and nothing
else (10_state R28). -/
def Obligations.PredicatesAsSpecialRegister : Prop :=
  (∀ (g : PredOp) (rd : GReg) (s : State), s.ready g [rd] →
    ∃ v : Word, exec (.mfs g rd 0) s = .next (s.setReg rd v) ∧ (∀ p : PReg, v.getLsbD p.val = s.pred p) ∧
      ∀ k, 8 ≤ k → v.getLsbD k = false) ∧
  (∀ (g : PredOp) (rs1 : GReg) (s : State), s.ready g [rs1] →
    ∃ t, exec (.mts g 0 rs1) s = .next t ∧ (∀ p : PReg, p ≠ 0 → t.pred p = (s.reg rs1).getLsbD p.val) ∧
      t = { s with preds := t.preds })

/-- `mts` to a register other than s0 writes it and no other; `mfs` copies a special register to a general-purpose one.
`sl` and `sh` may be moved outside the multiply window only, return registers outside the delay slots of the transfers
that use them (a pending call: neither moved; a pending return, ordinary or from an exception: not written), an unnamed
register only if the configuration gives it storage; any other move of these is refused (45_special_moves R266 to R273;
10_state R33; 49_control_flow R355, R367, R369). -/
def Obligations.SpecialMoves : Prop :=
  ∀ (g : PredOp) (r : GReg) (n : SReg) (s : State), s.ready g [r] →
    ((n = 2 ∨ n = 3 → s.mulShadow = 0) → (n = 1 ∨ n = 4 ∨ 11 ≤ n.val → s.cfg.plainSpecials = true) →
      (n = 7 ∨ n = 8 → ∀ p, s.pending = some p → p.kind ≠ .call) →
      exec (.mfs g r n) s = .next (s.setReg r (s.special n)) ∧
      (n ≠ 0 → (n = 7 ∨ n = 8 → ∀ p, s.pending = some p → p.kind ≠ .ret) →
        (n = 9 ∨ n = 10 → ∀ p, s.pending = some p → p.kind ≠ .xret) →
        ∃ t, exec (.mts g n r) s = .next t ∧ t.special n = s.reg r ∧
          (∀ k : SReg, k ≠ n → t.special k = s.special k) ∧ t = { s with sp := t.sp })) ∧
    (n = 2 ∨ n = 3 → s.mulShadow ≠ 0 →
      exec (.mts g n r) s = .refused .multiplyInFlight ∧ exec (.mfs g r n) s = .refused .multiplyInFlight) ∧
    (n = 1 ∨ n = 4 ∨ 11 ≤ n.val → s.cfg.plainSpecials = false →
      exec (.mts g n r) s = .refused .unnamedSpecial ∧ exec (.mfs g r n) s = .refused .unnamedSpecial) ∧
    (n = 7 ∨ n = 8 → (∃ p, s.pending = some p ∧ p.kind = .call) →
      exec (.mts g n r) s = .refused .returnRegisterInDelaySlot ∧
        exec (.mfs g r n) s = .refused .returnRegisterInDelaySlot) ∧
    ((n = 7 ∨ n = 8) ∧ (∃ p, s.pending = some p ∧ p.kind = .ret) ∨
        (n = 9 ∨ n = 10) ∧ (∃ p, s.pending = some p ∧ p.kind = .xret) →
      exec (.mts g n r) s = .refused .returnRegisterInDelaySlot)

/-! ### Loads -/

/-- The effective address of a typed access, and so of every statement below: base register plus unsigned displacement
times the access size, modulo 2^32 (46_load R281, 47_store R311). -/
def Obligations.EffectiveAddress : Prop :=
  ∀ (b : Word) (imm : BitVec 7),
    effective b .word imm = b + BitVec.ofNat 32 (4 * imm.toNat) ∧
    effective b .half imm = b + BitVec.ofNat 32 (2 * imm.toNat) ∧
    effective b .byte imm = b + BitVec.ofNat 32 imm.toNat

/-- Loads from the stack cache: an aligned access inside the valid window reads the bytes of the stack cache from `st`
plus the effective address up, big-endian, and extends them (20_memory R66, R73; 46_load R285, R289, R293, R297,
R301). -/
def Obligations.LoadStackCache : Prop :=
  ∀ (g : PredOp) (rd ra : GReg) (imm : BitVec 7) (s : State) (ea : Word) (at_ : Nat → Byte),
    s.ready g [ra, rd] → s.stackReady = true →
    (∀ k, at_ k = s.sc.read ((s.sp.st + ea + BitVec.ofNat 32 k).toNat % s.cfg.scSize)) →
    (ea = effective (s.reg ra) .word imm → ea.toNat % 4 = 0 → ea.toNat + 4 ≤ s.occupancy →
      exec (.lws g rd ra imm) s = .next (s.loaded rd (bigWord at_))) ∧
    (ea = effective (s.reg ra) .half imm → ea.toNat % 2 = 0 → ea.toNat + 2 ≤ s.occupancy →
      exec (.lhs g rd ra imm) s = .next (s.loaded rd ((bigHalf at_).signExtend 32)) ∧
      exec (.lhus g rd ra imm) s = .next (s.loaded rd ((bigHalf at_).setWidth 32))) ∧
    (ea = effective (s.reg ra) .byte imm → ea.toNat + 1 ≤ s.occupancy →
      exec (.lbs g rd ra imm) s = .next (s.loaded rd ((at_ 0).signExtend 32)) ∧
      exec (.lbus g rd ra imm) s = .next (s.loaded rd ((at_ 0).setWidth 32)))

/-- Loads from the data scratchpad (20_memory R62, R74; 46_load R286, R290, R294, R298, R302). -/
def Obligations.LoadScratchpad : Prop :=
  ∀ (g : PredOp) (rd ra : GReg) (imm : BitVec 7) (s : State) (ea : Word) (at_ : Nat → Byte),
    s.ready g [ra, rd] → ea.toNat < 0x10000 → (∀ k, at_ k = s.mem.dspm.read (ea.toNat + k)) →
    (ea = effective (s.reg ra) .word imm → ea.toNat % 4 = 0 → ea.toNat + 4 ≤ s.cfg.dspmSize →
      exec (.lwl g rd ra imm) s = .next (s.loaded rd (bigWord at_))) ∧
    (ea = effective (s.reg ra) .half imm → ea.toNat % 2 = 0 → ea.toNat + 2 ≤ s.cfg.dspmSize →
      exec (.lhl g rd ra imm) s = .next (s.loaded rd ((bigHalf at_).signExtend 32)) ∧
      exec (.lhul g rd ra imm) s = .next (s.loaded rd ((bigHalf at_).setWidth 32))) ∧
    (ea = effective (s.reg ra) .byte imm → ea.toNat + 1 ≤ s.cfg.dspmSize →
      exec (.lbl g rd ra imm) s = .next (s.loaded rd ((at_ 0).signExtend 32)) ∧
      exec (.lbul g rd ra imm) s = .next (s.loaded rd ((at_ 0).setWidth 32)))

/-- Loads from global memory: past the data cache, of bytes that no write-back cache may hold (`dcDirty`); or through
it, outside local mode, of bytes of which the cache holds no stale copy (`dcStale`); never of bytes in the stack-cache
window. The marks are the model's own bookkeeping, log entry 14 (20_memory R66, R75, R76, R81; 46_load R287, R288,
R291, R292, R295, R296, R299, R300, R303, R304). -/
def Obligations.LoadGlobal : Prop :=
  ∀ (g : PredOp) (rd ra : GReg) (imm : BitVec 7) (s : State) (i : Instr) (n pa : Nat) (ea v : Word) (at_ : Nat → Byte)
    (marked : Memory), s.ready g [ra, rd] → (∀ k, at_ k = s.mem.gm.read (pa + k)) →
    ((marked = s.marks.dcDirty ∧
        ((i = .lwm g rd ra imm ∧ n = 4 ∧ ea = effective (s.reg ra) .word imm ∧ v = bigWord at_) ∨
          (i = .lhm g rd ra imm ∧ n = 2 ∧ ea = effective (s.reg ra) .half imm ∧ v = (bigHalf at_).signExtend 32) ∨
          (i = .lhum g rd ra imm ∧ n = 2 ∧ ea = effective (s.reg ra) .half imm ∧ v = (bigHalf at_).setWidth 32) ∨
          (i = .lbm g rd ra imm ∧ n = 1 ∧ ea = effective (s.reg ra) .byte imm ∧ v = (at_ 0).signExtend 32) ∨
          (i = .lbum g rd ra imm ∧ n = 1 ∧ ea = effective (s.reg ra) .byte imm ∧ v = (at_ 0).setWidth 32))) ∨
      (s.exc.localMode = false ∧ marked = s.marks.dcStale ∧
        ((i = .lwc g rd ra imm ∧ n = 4 ∧ ea = effective (s.reg ra) .word imm ∧ v = bigWord at_) ∨
          (i = .lhc g rd ra imm ∧ n = 2 ∧ ea = effective (s.reg ra) .half imm ∧ v = (bigHalf at_).signExtend 32) ∨
          (i = .lhuc g rd ra imm ∧ n = 2 ∧ ea = effective (s.reg ra) .half imm ∧ v = (bigHalf at_).setWidth 32) ∨
          (i = .lbc g rd ra imm ∧ n = 1 ∧ ea = effective (s.reg ra) .byte imm ∧ v = (at_ 0).signExtend 32) ∨
          (i = .lbuc g rd ra imm ∧ n = 1 ∧ ea = effective (s.reg ra) .byte imm ∧ v = (at_ 0).setWidth 32)))) →
    ea.toNat % n = 0 → s.reaches .read ea n pa → s.aliasesStack ea n = false →
    (∀ k, k < n → marked.read (pa + k) = 0) →
    exec i s = .next (s.loaded rd v)

/-! ### Stores -/

/-- Stores to the stack cache write the low bytes of `Rs` there, big-endian, and nothing else (20_memory R70, R73;
47_store R314, R318, R322). -/
def Obligations.StoreStackCache : Prop :=
  ∀ (g : PredOp) (ra rs : GReg) (imm : BitVec 7) (s : State) (ea : Word) (addr : Nat → Nat),
    s.ready g [ra, rs] → s.stackReady = true →
    (∀ k, addr k = (s.sp.st + ea + BitVec.ofNat 32 k).toNat % s.cfg.scSize) →
    (ea = effective (s.reg ra) .word imm → ea.toNat % 4 = 0 → ea.toNat + 4 ≤ s.occupancy →
      ∃ c, exec (.sws g ra rs imm) s = .next { s with sc := c } ∧ Stored s.sc c addr 4 (s.reg rs)) ∧
    (ea = effective (s.reg ra) .half imm → ea.toNat % 2 = 0 → ea.toNat + 2 ≤ s.occupancy →
      ∃ c, exec (.shs g ra rs imm) s = .next { s with sc := c } ∧ Stored s.sc c addr 2 (s.reg rs)) ∧
    (ea = effective (s.reg ra) .byte imm → ea.toNat + 1 ≤ s.occupancy →
      ∃ c, exec (.sbs g ra rs imm) s = .next { s with sc := c } ∧ Stored s.sc c addr 1 (s.reg rs))

/-- Stores to the data scratchpad, and to the instruction scratchpad through the local space, write the low bytes of
`Rs` there and nothing else (20_memory R62, R70, R74; 47_store R315, R319, R323). That in the latter the bytes are marked
as not yet fetched afresh is the model's own bookkeeping for 20_memory R85 c, log entry 14. -/
def Obligations.StoreScratchpads : Prop :=
  ∀ (g : PredOp) (ra rs : GReg) (imm : BitVec 7) (s : State) (i : Instr) (n : Nat) (ea : Word),
    s.ready g [ra, rs] →
    ((i = .swl g ra rs imm ∧ n = 4 ∧ ea = effective (s.reg ra) .word imm) ∨
      (i = .shl g ra rs imm ∧ n = 2 ∧ ea = effective (s.reg ra) .half imm) ∨
      (i = .sbl g ra rs imm ∧ n = 1 ∧ ea = effective (s.reg ra) .byte imm)) →
    ea.toNat % n = 0 →
    (ea.toNat < 0x10000 → ea.toNat + n ≤ s.cfg.dspmSize →
      ∃ c, exec i s = .next { s with mem := { s.mem with dspm := c } } ∧
        Stored s.mem.dspm c (ea.toNat + ·) n (s.reg rs)) ∧
    (0x10000 ≤ ea.toNat → ea.toNat < 0x20000 → ea.toNat - 0x10000 + n ≤ s.cfg.ispmSize →
      ∃ c m, exec i s =
          .next { s with mem := { s.mem with ispm := c }, marks := { s.marks with ispmStale := m } } ∧
        Stored s.mem.ispm c (ea.toNat - 0x10000 + ·) n (s.reg rs) ∧
        ∀ k, k < n → m.read (ea.toNat - 0x10000 + k) ≠ 0)

/-- Stores to global memory, cached (outside local mode) or not, write the low bytes of `Rs` at the physical address
and nothing else; what the caches may show of them is the model's own bookkeeping `marks`, log entry 14 (20_memory
R70, R75, R76; 47_store R316, R317, R320, R321, R324, R325). -/
def Obligations.StoreGlobal : Prop :=
  ∀ (g : PredOp) (ra rs : GReg) (imm : BitVec 7) (s : State) (i : Instr) (n pa : Nat) (ea : Word),
    s.ready g [ra, rs] →
    ((i = .swm g ra rs imm ∧ n = 4 ∧ ea = effective (s.reg ra) .word imm) ∨
      (i = .shm g ra rs imm ∧ n = 2 ∧ ea = effective (s.reg ra) .half imm) ∨
      (i = .sbm g ra rs imm ∧ n = 1 ∧ ea = effective (s.reg ra) .byte imm) ∨
      (s.exc.localMode = false ∧
        ((i = .swc g ra rs imm ∧ n = 4 ∧ ea = effective (s.reg ra) .word imm) ∨
          (i = .shc g ra rs imm ∧ n = 2 ∧ ea = effective (s.reg ra) .half imm) ∨
          (i = .sbc g ra rs imm ∧ n = 1 ∧ ea = effective (s.reg ra) .byte imm)))) →
    ea.toNat % n = 0 → s.reaches .write ea n pa → s.aliasesStack ea n = false →
    ∃ c m, exec i s = .next { s with mem := { s.mem with gm := c }, marks := m } ∧
      Stored s.mem.gm c (pa + ·) n (s.reg rs)

/-- A word load that follows a word store to the same address, by the same path, returns the stored value, where the
MMU, if there is one, gives the load the address it gave the store (47_store R313 c, d; 20_memory R90 b). -/
def Obligations.StoreThenLoadGlobal : Prop :=
  ∀ (g h : PredOp) (ra rs rd : GReg) (imm : BitVec 7) (s t : State), s.ps g = true → t.ready h [ra, rd] →
    s.exc.localMode = false → t.excEntered = false →
    s.translate .read (effective (s.reg ra) .word imm) = s.translate .write (effective (s.reg ra) .word imm) →
    (exec (.swc g ra rs imm) s = .next t → exec (.lwc h rd ra imm) t = .next (t.loaded rd (s.reg rs))) ∧
    (exec (.swm g ra rs imm) s = .next t → (∀ a, s.marks.dcDirty.read a = 0) →
      exec (.lwm h rd ra imm) t = .next (t.loaded rd (s.reg rs)))

/-- In local mode the cached accesses are the local ones (20_memory R82). -/
def Obligations.LocalModeRedirects : Prop :=
  ∀ (g : PredOp) (r q : GReg) (imm : BitVec 7) (s : State), s.exc.localMode = true →
    exec (.lwc g r q imm) s = exec (.lwl g r q imm) s ∧ exec (.lhc g r q imm) s = exec (.lhl g r q imm) s ∧
    exec (.lhuc g r q imm) s = exec (.lhul g r q imm) s ∧ exec (.lbc g r q imm) s = exec (.lbl g r q imm) s ∧
    exec (.lbuc g r q imm) s = exec (.lbul g r q imm) s ∧ exec (.swc g r q imm) s = exec (.swl g r q imm) s ∧
    exec (.shc g r q imm) s = exec (.shl g r q imm) s ∧ exec (.sbc g r q imm) s = exec (.sbl g r q imm) s

/-- What memory and stack operands must be. An access that is not naturally aligned is refused, whatever its space
(20_memory R68); so is a stack operation, or an aligned access to the stack cache, on stack pointers that are not word
aligned or further apart than the stack cache is large (48_stack_control R331); so is an aligned access to the stack
cache that ends above the valid window (20_memory R73); so are a reservation or an ensured size above `SC_SIZE`, a spill
above the occupancy, a register size that is no multiple of 4, and a free that wraps (48_stack_control R334 to
R339). -/
def Obligations.MemoryOperandsChecked : Prop :=
  ∀ (g : PredOp) (r ra rs : GReg) (imm : BitVec 7) (size : BitVec 18) (s : State), s.ready g [ra, r, rs] →
    ((effective (s.reg ra) .word imm).toNat % 4 ≠ 0 →
      ∀ i ∈ [Instr.lws g r ra imm, .lwl g r ra imm, .lwc g r ra imm, .lwm g r ra imm,
             .sws g ra rs imm, .swl g ra rs imm, .swc g ra rs imm, .swm g ra rs imm],
        exec i s = .refused .misaligned) ∧
    ((effective (s.reg ra) .half imm).toNat % 2 ≠ 0 →
      ∀ i ∈ [Instr.lhs g r ra imm, .lhl g r ra imm, .lhc g r ra imm, .lhm g r ra imm,
             .lhus g r ra imm, .lhul g r ra imm, .lhuc g r ra imm, .lhum g r ra imm,
             .shs g ra rs imm, .shl g ra rs imm, .shc g ra rs imm, .shm g ra rs imm],
        exec i s = .refused .misaligned) ∧
    ((s.sp.ss.toNat % 4 ≠ 0 ∨ s.sp.st.toNat % 4 ≠ 0 ∨ s.cfg.scSize < s.occupancy) →
      ∀ i ∈ [Instr.sres g size, .sens g size, .sfree g size, .sspill g size, .sensR g rs, .sspillR g rs,
             .lbs g r ra imm, .lbus g r ra imm, .sbs g ra rs imm],
        exec i s = .refused .stackPointers) ∧
    (∀ (z : Size) (i : Instr) (ea : Word),
      (z = .word ∧ i ∈ [Instr.lws g r ra imm, .sws g ra rs imm]) ∨
      (z = .half ∧ i ∈ [Instr.lhs g r ra imm, .lhus g r ra imm, .shs g ra rs imm]) ∨
      (z = .byte ∧ i ∈ [Instr.lbs g r ra imm, .lbus g r ra imm, .sbs g ra rs imm]) →
      ea = effective (s.reg ra) z imm → ea.toNat % z.bytes = 0 →
      (s.sp.ss.toNat % 4 ≠ 0 ∨ s.sp.st.toNat % 4 ≠ 0 ∨ s.cfg.scSize < s.occupancy →
        exec i s = .refused .stackPointers) ∧
      (s.stackReady = true → s.occupancy < ea.toNat + z.bytes → exec i s = .refused .stackWindow)) ∧
    (s.stackReady = true →
      (s.cfg.scSize < 4 * size.toNat →
        exec (.sres g size) s = .refused .stackSize ∧ exec (.sens g size) s = .refused .stackSize) ∧
      (s.occupancy < 4 * size.toNat → exec (.sspill g size) s = .refused .stackSize) ∧
      ((s.reg rs).toNat % 4 ≠ 0 ∨ s.cfg.scSize < (s.reg rs).toNat → exec (.sensR g rs) s = .refused .stackSize) ∧
      ((s.reg rs).toNat % 4 ≠ 0 ∨ s.occupancy < (s.reg rs).toNat → exec (.sspillR g rs) s = .refused .stackSize) ∧
      (2 ^ 32 ≤ s.sp.st.toNat + 4 * size.toNat → exec (.sfree g size) s = .refused .stackWrap))

/-- The MMU: without one, physical and virtual addresses are equal; with one, the segment that bits 31:29 name is used,
the physical address is its base plus the offset in bits 28:0, modulo 2^32 and in either mode, and in user mode the
access is denied unless the offset is below the segment's length and the permission bit for the kind of access is set
(20_memory R101, R102). An access that it denies, or to an unmapped address, raises `IllegalMemoryAccess` instead of
executing the bundle (20_memory R77, R101; 60_exceptions R413). That with an MMU the memory map is applied to the physical address is the model's choice, log
entry 16. -/
def Obligations.UnmappedAccessRaises : Prop :=
  (∀ (s : State) (k : AccessKind) (va : Word), s.cfg.hasMmu = false → s.translate k va = some va) ∧
  (∀ (s : State) (k : AccessKind) (va : Word) (n : Fin 8) (off bit : Nat), s.cfg.hasMmu = true →
    va.toNat = n.val * 2 ^ 29 + off → off < 2 ^ 29 →
    (k = .read ∧ bit = 31 ∨ k = .write ∧ bit = 30 ∨ k = .execute ∧ bit = 29) →
    (s.userMode = false ∨ off < s.mmu.segConf[n].toNat % 2 ^ 29 ∧ s.mmu.segConf[n].getLsbD bit = true →
      s.translate k va = some (s.mmu.segBase[n] + BitVec.ofNat 32 off)) ∧
    (s.userMode = true → s.mmu.segConf[n].toNat % 2 ^ 29 ≤ off ∨ s.mmu.segConf[n].getLsbD bit = false →
      s.translate k va = none)) ∧
  ∀ (g : PredOp) (r ra rs : GReg) (imm : BitVec 7) (s : State) (size : Size) (ea : Word), s.ready g [ra, r, rs] →
    ea = effective (s.reg ra) size imm → ea.toNat % size.bytes = 0 →
    (s.localUnmapped ea → ∀ i : Instr,
      (size = .word ∧ i ∈ [Instr.lwl g r ra imm, .swl g ra rs imm]) ∨
      (size = .half ∧ i ∈ [Instr.lhl g r ra imm, .lhul g r ra imm, .shl g ra rs imm]) ∨
      (size = .byte ∧ i ∈ [Instr.lbl g r ra imm, .lbul g r ra imm, .sbl g ra rs imm]) →
      exec i s = s.illegalAccess) ∧
    (s.globalUnmapped .read ea → ∀ i : Instr,
      (size = .word ∧ (i = .lwm g r ra imm ∨ s.exc.localMode = false ∧ i = .lwc g r ra imm)) ∨
      (size = .half ∧ (i ∈ [Instr.lhm g r ra imm, .lhum g r ra imm] ∨
        s.exc.localMode = false ∧ i ∈ [Instr.lhc g r ra imm, .lhuc g r ra imm])) ∨
      (size = .byte ∧ (i ∈ [Instr.lbm g r ra imm, .lbum g r ra imm] ∨
        s.exc.localMode = false ∧ i ∈ [Instr.lbc g r ra imm, .lbuc g r ra imm])) →
      exec i s = s.illegalAccess) ∧
    (s.globalUnmapped .write ea → ∀ i : Instr,
      (size = .word ∧ (i = .swm g ra rs imm ∨ s.exc.localMode = false ∧ i = .swc g ra rs imm)) ∨
      (size = .half ∧ (i = .shm g ra rs imm ∨ s.exc.localMode = false ∧ i = .shc g ra rs imm)) ∨
      (size = .byte ∧ (i = .sbm g ra rs imm ∨ s.exc.localMode = false ∧ i = .sbc g ra rs imm)) →
      exec i s = s.illegalAccess)

/-! ### Device registers -/

/-- The registers of the exception unit: loads, in either mode, give status, mask, pend, source and the 32 vectors;
stores, in privileged mode, set them (`source` cannot be stored), put the core to sleep where it can sleep, or, at
`cachectrl`, invert the local mode with bit 31; nothing else changes (60_exceptions R403 to R410). That the two
invalidates of `cachectrl` are changes of `marks` is the model's own bookkeeping, log entries 14 and 17: with bit 0 the
bytes stored past the data cache are no longer stale, with bit 1 the code stored so far becomes visible to a cache
fill. -/
def Obligations.ExceptionUnitRegisters : Prop :=
  ∀ (g : PredOp) (r ra rs : GReg) (imm : BitVec 7) (s : State) (ea : Word),
    s.ready g [ra, r, rs] → ea = effective (s.reg ra) .word imm → s.xretPending = false →
    (s.registerAt .excUnit 0x00 ea → exec (.lwl g r ra imm) s = .next (s.loaded r s.exc.status)) ∧
    (s.registerAt .excUnit 0x04 ea → exec (.lwl g r ra imm) s = .next (s.loaded r s.exc.mask)) ∧
    (s.registerAt .excUnit 0x08 ea → exec (.lwl g r ra imm) s = .next (s.loaded r s.exc.pend)) ∧
    (s.registerAt .excUnit 0x0c ea → exec (.lwl g r ra imm) s = .next (s.loaded r s.exc.source)) ∧
    (∀ n : Fin 32, s.registerAt .excUnit (0x80 + 4 * n.val) ea →
      exec (.lwl g r ra imm) s = .next (s.loaded r s.exc.vec[n])) ∧
    (s.userMode = false →
      (s.registerAt .excUnit 0x00 ea →
        exec (.swl g ra rs imm) s = .next { s with exc := { s.exc with status := s.reg rs } }) ∧
      (s.registerAt .excUnit 0x04 ea →
        exec (.swl g ra rs imm) s = .next { s with exc := { s.exc with mask := s.reg rs } }) ∧
      (s.registerAt .excUnit 0x08 ea →
        exec (.swl g ra rs imm) s = .next { s with exc := { s.exc with pend := s.reg rs } }) ∧
      (s.registerAt .excUnit 0x0c ea → exec (.swl g ra rs imm) s = .refused .registerAccess) ∧
      (s.registerAt .excUnit 0x10 ea → exec (.swl g ra rs imm) s =
        .next (if s.cfg.hasSleep then { s with sleeping := true } else s)) ∧
      (s.registerAt .excUnit 0x14 ea → exec (.swl g ra rs imm) s =
        .next { s with
          marks := { s.marks with
            dcStale := if (s.reg rs).getLsbD 0 then s.marks.dcDirty else s.marks.dcStale
            icStale := if (s.reg rs).getLsbD 1 then s.marks.icStale.map (fun c => (c.1, if c.2 = 1 then 2 else c.2))
              else s.marks.icStale }
          exc := { s.exc with localMode := s.exc.localMode != (s.reg rs).getLsbD 31 } }) ∧
      (∀ n : Fin 32, s.registerAt .excUnit (0x80 + 4 * n.val) ea →
        ∃ vec, exec (.swl g ra rs imm) s = .next { s with exc := { s.exc with vec := vec } } ∧
          vec[n] = s.reg rs ∧ ∀ k : Fin 32, k ≠ n → vec[k] = s.exc.vec[k]))

/-- A store to the exception unit's window, or to the registers of the MMU where there is one, in user mode raises
`IllegalMemoryAccess`, or, with the other setting of `USER_EXC_WRITE`, is ignored (60_exceptions R431). -/
def Obligations.UserStoreToProtectedRegisters : Prop :=
  ∀ (g : PredOp) (ra rs : GReg) (imm : BitVec 7) (s : State) (ea : Word) (off : Nat),
    s.ready g [ra, rs] → ea = effective (s.reg ra) .word imm → ea.toNat % 4 = 0 →
    (s.registerAt .excUnit off ea ∧ off < 0x100 ∧ s.xretPending = false ∨ s.registerAt .mmu off ea ∧ off < 0x40) →
    s.userMode = true →
    exec (.swl g ra rs imm) s = (if s.cfg.userWriteFaults then s.illegalAccess else .next s)

/-- Registers of the devices that do something. The timer's two counters and their interrupt times: a load of a low word
latches the high word, which a load of the high word directly after gives; a store of a low word is held, and a store of
the high word directly after arms that counter's interrupt time; a high word without its low word before it is refused
(60_exceptions R443, R445, R446). That a store between the two loads of a pair breaks it is 70_reset_and_hazards R488 d
as log entry 33 reads it. The UARTs: a load of the status shows `TRE`, free, in bit 0 and `DAV`, free but 0 where no byte
waits, in bit 1, and is remembered; a store of the data appends its low byte to what was sent, if the transmitter is
known to be ready, and else, freely, appends it or loses it; a load of the data takes the oldest byte received, and is
refused if none is known to wait; the status cannot be stored (R450, R451). The LEDs record what is stored and read a
free word, the keys read a free word and cannot be stored (R452, R453). The deadline counter is set by a store, and a
load lets its remaining time pass (R448). The example counter reads and is set, or reads 42 (R456). -/
def Obligations.DeviceRegisters : Prop :=
  ∀ (g : PredOp) (r ra rs : GReg) (imm : BitVec 7) (s : State) (ea : Word),
    s.ready g [ra, r, rs] → ea = effective (s.reg ra) .word imm →
    (∀ (k : TimerCounter) (x : BitVec 64) (lo hi : Nat),
      (k = .cycles ∧ x = s.io.timer.cycles ∧ hi = 0x0 ∧ lo = 0x4 ∨
        k = .usecs ∧ x = s.io.timer.usecs ∧ hi = 0x8 ∧ lo = 0xc) →
      (s.registerAt .timer lo ea →
        exec (.lwl g r ra imm) s =
          .next ((s.withTimer { s.io.timer with latch := (x >>> 32).setWidth 32, latchOf := some k }).loaded r
            (x.setWidth 32)) ∧
        exec (.swl g ra rs imm) s =
          .next (s.withTimer { s.io.timer with heldLow := s.reg rs, heldOf := some k, latchOf := none })) ∧
      (s.registerAt .timer hi ea →
        (s.io.timer.latchOf = some k → exec (.lwl g r ra imm) s =
          .next ((s.withTimer { s.io.timer with latchOf := none }).loaded r s.io.timer.latch)) ∧
        (s.io.timer.latchOf ≠ some k → exec (.lwl g r ra imm) s = .refused .timerProtocol) ∧
        (s.io.timer.heldOf = some k → exec (.swl g ra rs imm) s =
          .next (s.withTimer { s.io.timer with
            cycleTime := if k = .cycles then some (s.reg rs ++ s.io.timer.heldLow) else s.io.timer.cycleTime
            usecTime := if k = .usecs then some (s.reg rs ++ s.io.timer.heldLow) else s.io.timer.usecTime
            heldOf := none
            latchOf := none })) ∧
        (s.io.timer.heldOf ≠ some k → exec (.swl g ra rs imm) s = .refused .timerProtocol))) ∧
    (∀ (port tre dav : Bool) (d : Device) (u : Uart), d = (if port then .uart2 else .uart) → u = s.uartOf port →
      tre = Config.uartReady port s.ticks → dav = (Config.uartShown port s.ticks && u.rx != []) →
      (s.registerAt d 0 ea →
        exec (.lwl g r ra imm) s =
          .next ((s.withUart port { u with readySeen := u.readySeen || tre, dataSeen := u.dataSeen || dav }).loaded r
            ((if dav then 2 else 0) + (if tre then 1 else 0))) ∧
        exec (.swl g ra rs imm) s = .refused .registerAccess) ∧
      (s.registerAt d 4 ea →
        exec (.swl g ra rs imm) s =
          .next (s.withUart port { u with
            tx := if u.readySeen || Config.uartKept port s.ticks then u.tx ++ [(s.reg rs).setWidth 8] else u.tx
            readySeen := false }) ∧
        (∀ b rest, u.dataSeen = true → u.rx = b :: rest → exec (.lwl g r ra imm) s =
          .next ((s.withUart port { u with rx := rest, dataSeen := false }).loaded r (b.setWidth 32))) ∧
        (u.dataSeen = false ∨ u.rx = [] → exec (.lwl g r ra imm) s = .refused .uartProtocol))) ∧
    (s.registerAt .leds 0 ea →
      exec (.swl g ra rs imm) s = .next { s with io := { s.io with leds := s.io.leds ++ [s.reg rs] } } ∧
      exec (.lwl g r ra imm) s = .next (s.loaded r (Config.ledRead s.ticks))) ∧
    (s.registerAt .keys 0 ea →
      exec (.lwl g r ra imm) s = .next (s.loaded r (Config.keysRead s.ticks)) ∧
      exec (.swl g ra rs imm) s = .refused .registerAccess) ∧
    (s.registerAt .deadline 0 ea →
      exec (.swl g ra rs imm) s = .next { s with io := { s.io with deadline := s.reg rs } } ∧
      exec (.lwl g r ra imm) s =
        .next ((s.passTime s.io.deadline.toNat).loaded r (Config.deadlineRead s.ticks))) ∧
    (s.registerAt .counter 0 ea →
      (s.cfg.devices.counterRuns = true →
        exec (.swl g ra rs imm) s = .next { s with io := { s.io with counter := s.reg rs } } ∧
        exec (.lwl g r ra imm) s = .next (s.loaded r s.io.counter)) ∧
      (s.cfg.devices.counterRuns = false →
        exec (.swl g ra rs imm) s = .fault .deviceHang ∧ exec (.lwl g r ra imm) s = .next (s.loaded r 42)))

/-- Registers that say or set how the machine is configured. CpuInfo shows the parameters, its sizes in bytes and its
burst length as configured (their units are the model's choice, log entry 42; `Freq` in MHz, log entry 7), and the boot
data ROM, each word big-endian; nothing there can be stored (60_exceptions R440, R441). That every word from offset
0x8000 to 0x8fff can be loaded, whatever the size of the boot application's data, is the model's choice, log entry 24.
The MMU's registers read what
was stored, in either mode; a store in privileged mode writes the one register named and no other
(20_memory R100). -/
def Obligations.ConfigurationRegisters : Prop :=
  ∀ (g : PredOp) (r ra rs : GReg) (imm : BitVec 7) (s : State) (ea : Word),
    s.ready g [ra, r, rs] → ea = effective (s.reg ra) .word imm →
    (∀ (off : Nat) (v : Word), (off, v) ∈
        [(0x00, s.cfg.coreId), (0x04, BitVec.ofNat 32 s.cfg.freq), (0x08, s.cfg.coreCnt),
         (0x0c, if s.cfg.dualIssue then 2 else 1), (0x10, BitVec.ofNat 32 s.cfg.memSize),
         (0x14, BitVec.ofNat 32 (s.cfg.burstLength.toNat * 256 + if s.cfg.combinesWrites then 1 else 0)),
         (0x18, BitVec.ofNat 32 s.cfg.icacheSize),
         (0x1c, BitVec.ofNat 32 ((if s.cfg.methodCache then 1 else 2) * 2 ^ 24 + s.cfg.icacheConf.toNat)),
         (0x20, BitVec.ofNat 32 s.cfg.dcacheSize),
         (0x24, BitVec.ofNat 32 ((if s.cfg.writeBackDcache then 0 else 1) * 2 ^ 24 + s.cfg.dcacheConf.toNat)),
         (0x28, BitVec.ofNat 32 s.cfg.scSize), (0x2c, 0), (0x30, BitVec.ofNat 32 s.cfg.ispmSize),
         (0x34, BitVec.ofNat 32 s.cfg.dspmSize)] →
      s.registerAt .cpuInfo off ea → exec (.lwl g r ra imm) s = .next (s.loaded r v)) ∧
    (∀ off, off < 0x1000 → off % 4 = 0 → s.registerAt .cpuInfo (0x8000 + off) ea →
      exec (.lwl g r ra imm) s = .next (s.loaded r (bigWord (fun k => s.mem.bootData.read (off + k))))) ∧
    (∀ off, off < 0x10000 → off % 4 = 0 → s.registerAt .cpuInfo off ea →
      exec (.swl g ra rs imm) s = .refused .registerAccess) ∧
    (∀ n : Fin 8, s.registerAt .mmu (8 * n.val) ea →
      exec (.lwl g r ra imm) s = .next (s.loaded r s.mmu.segBase[n]) ∧
      (s.userMode = false → ∃ q, exec (.swl g ra rs imm) s = .next { s with mmu := { s.mmu with segBase := q } } ∧
        q[n] = s.reg rs ∧ ∀ k : Fin 8, k ≠ n → q[k] = s.mmu.segBase[k])) ∧
    (∀ n : Fin 8, s.registerAt .mmu (8 * n.val + 4) ea →
      exec (.lwl g r ra imm) s = .next (s.loaded r s.mmu.segConf[n]) ∧
      (s.userMode = false → ∃ q, exec (.swl g ra rs imm) s = .next { s with mmu := { s.mmu with segConf := q } } ∧
        q[n] = s.reg rs ∧ ∀ k : Fin 8, k ≠ n → q[k] = s.mmu.segConf[k]))

/-! ### Stack control -/

/-- `sfree` moves `st` up by the size freed, and `ss` with it where everything resident is freed; `sres` where the
reservation fits in the stack cache moves `st` down (48_stack_control R331, R334, R336). -/
def Obligations.ReserveAndFreeResident : Prop :=
  ∀ (g : PredOp) (imm : BitVec 18) (s : State) (n : Word), s.ps g = true → s.stackReady = true →
    n = BitVec.ofNat 32 (4 * imm.toNat) →
    (s.sp.st.toNat + n.toNat < 2 ^ 32 → exec (.sfree g imm) s =
      .next { s with sp := { s.sp with
        st := s.sp.st + n
        ss := if s.sp.ss.toNat < (s.sp.st + n).toNat then s.sp.st + n else s.sp.ss } }) ∧
    (s.occupancy + n.toNat ≤ s.cfg.scSize →
      exec (.sres g imm) s = .next { s with sp := { s.sp with st := s.sp.st - n } })

/-- What `sspill` (immediate in words or register in bytes) and an `sres` that does not fit spill: the `n` bytes next
below `ss`, word by word, each byte to its own global address (translated, where there is an MMU, to `pa j` for the
word `j` words below `ss`); `ss` goes down by `n`; no other byte changes. `SC_SIZE` is a power of two, 4 at least;
`SC_BLOCK` = 4 is the spec's word-exact choice (48_stack_control R333, R334, R337, R339; 10_state R35). -/
def Obligations.SpillMovesBytes : Prop :=
  ∀ (g : PredOp) (imm : BitVec 18) (rs : GReg) (s : State) (n e : Nat) (pa : Nat → Nat),
    s.ready g [rs] → s.stackReady = true → s.cfg.scSize = 2 ^ e → 2 ≤ e → n % 4 = 0 →
    (∀ j, j < n / 4 → s.reaches .write (s.sp.ss - BitVec.ofNat 32 (4 * (j + 1))) 4 (pa j)) →
    (∀ i j, i < n / 4 → j < n / 4 → i ≠ j → pa i + 4 ≤ pa j ∨ pa j + 4 ≤ pa i) →
    ∃ c m,
      (n ≤ s.occupancy → n = 4 * imm.toNat → exec (.sspill g imm) s =
        .next { s with sp := { s.sp with ss := s.sp.ss - BitVec.ofNat 32 n }, mem := { s.mem with gm := c },
                       marks := m }) ∧
      (n ≤ s.occupancy → n = (s.reg rs).toNat → exec (.sspillR g rs) s =
        .next { s with sp := { s.sp with ss := s.sp.ss - BitVec.ofNat 32 n }, mem := { s.mem with gm := c },
                       marks := m }) ∧
      (4 * imm.toNat ≤ s.cfg.scSize → n = s.occupancy + 4 * imm.toNat - s.cfg.scSize → exec (.sres g imm) s =
        .next { s with sp := { s.sp with st := s.sp.st - BitVec.ofNat 32 (4 * imm.toNat)
                                         ss := s.sp.ss - BitVec.ofNat 32 n }
                       mem := { s.mem with gm := c }
                       marks := m }) ∧
      (∀ j, j < n / 4 → ∀ b, b < 4 → c.read (pa j + b) =
        s.sc.read ((s.sp.ss - BitVec.ofNat 32 (4 * (j + 1)) + BitVec.ofNat 32 b).toNat % s.cfg.scSize)) ∧
      (∀ a, (∀ j, j < n / 4 → a < pa j ∨ pa j + 4 ≤ a) → c.read a = s.mem.gm.read a)

/-- `sens`, immediate in words or register in bytes: what is missing of `n` valid bytes, `k` bytes, is filled from
global memory, word by word, each byte from its own global address above `ss` (translated, where there is an MMU, to
`pa j` for the word `j` words above `ss`), and `ss` goes up by `k`; where nothing is missing nothing changes
(48_stack_control R333, R335, R338; 10_state R35). The model's choices: `ss` is exact because the fill is word by word,
`SC_BLOCK` = 4, the spec's D17 and log entry 27; and no byte may be held by a write-back cache only (`dcDirty`), log
entries 14 and 17. -/
def Obligations.EnsureFillsMissingBytes : Prop :=
  ∀ (g : PredOp) (imm : BitVec 18) (rs : GReg) (s : State) (n k e : Nat) (pa : Nat → Nat),
    s.ready g [rs] → s.stackReady = true → s.cfg.scSize = 2 ^ e → 2 ≤ e → e ≤ 32 → n % 4 = 0 → n ≤ s.cfg.scSize →
    k = n - s.occupancy →
    (∀ j, j < k / 4 → s.reaches .read (s.sp.ss + BitVec.ofNat 32 (4 * j)) 4 (pa j)) →
    (∀ a, s.marks.dcDirty.read a = 0) →
    ∃ c, (n = 4 * imm.toNat → exec (.sens g imm) s =
        .next { s with sp := { s.sp with ss := s.sp.ss + BitVec.ofNat 32 k }, sc := c }) ∧
      (n = (s.reg rs).toNat → exec (.sensR g rs) s =
        .next { s with sp := { s.sp with ss := s.sp.ss + BitVec.ofNat 32 k }, sc := c }) ∧
      (∀ j, j < k / 4 → ∀ b, b < 4 →
        c.read ((s.sp.ss + BitVec.ofNat 32 (4 * j) + BitVec.ofNat 32 b).toNat % s.cfg.scSize) =
          s.mem.gm.read (pa j + b)) ∧
      (∀ x, (∀ i, i < k → x ≠ (s.sp.ss + BitVec.ofNat 32 i).toNat % s.cfg.scSize) → c.read x = s.sc.read x)

/-! ### Control flow -/

/-- Entering a code block at `b`, to go on at `t`. In external memory with a method cache the block is as long as the
size word before it says, read from global memory also before the first external address; the size must be a multiple of
4, not 0 and at most the cache, every word of the block must be readable code, and the target must lie in the block; in
the boot ROM and the instruction scratchpad, and with a traditional cache, no size word is read. A misaligned base or
target, a bad size, a target outside the block or in no memory is refused; a word that the MMU denies is a fault.
Nothing but the base, the block's bounds and the marks of stored code changes (49_control_flow R353, R354; 20_memory
R69, R77, R83, R84, R101, R102). The model's own bookkeeping for 20_memory R85, log entry 14: of the bytes stored and
then invalidated (mark 2) those the fill reads become visible, with a traditional cache all (log entry 29); any other
mark on the size word refuses the fill. The model's choices: that the whole block is read, log entry 18; that from a
base below 0x20000 no target above is reached under the method cache, log entry 15. -/
def Obligations.EnterBlock : Prop :=
  ∀ (s : State) (b t : Word),
    (t.toNat % 4 ≠ 0 → s.enterBlock b t = .refuse .misalignedTarget) ∧
    (t.toNat % 4 = 0 → b.toNat < 0x20000 ∨ s.cfg.methodCache = false →
      (t.toNat < 0x10000 ∨ (0x10000 ≤ t.toNat ∧ t.toNat < 0x20000 ∧ t.toNat - 0x10000 + 4 ≤ s.cfg.ispmSize) ∨
          (s.cfg.methodCache = false ∧ 0x20000 ≤ t.toNat ∧
            (s.translate .execute t = none ∨ ∃ pa, s.reaches .execute t 4 pa)) →
        ∃ x, s.enterBlock b t = .entered { s with
            base := b
            blockSize := none
            marks := { s.marks with icStale := x, ispmStale := [] } } ∧
          (s.cfg.methodCache = true → x = s.marks.icStale) ∧
          (s.cfg.methodCache = false → s.marks.icStale.wf →
            ∀ a, x.read a = if s.marks.icStale.read a = 2 then 0 else s.marks.icStale.read a)) ∧
      ((0x10000 ≤ t.toNat ∧ t.toNat < 0x20000 ∧ s.cfg.ispmSize < t.toNat - 0x10000 + 4) ∨
          (s.cfg.methodCache = false ∧ 0x20000 ≤ t.toNat ∧
            ∃ w, s.translate .execute t = some w ∧ (0x80000000 ≤ w.toNat ∨ s.cfg.memSize < w.toNat + 4)) →
        s.enterBlock b t = .refuse .unmappedCode) ∧
      (s.cfg.methodCache = true → 0x20000 ≤ t.toNat → s.enterBlock b t = .refuse .outsideBlock)) ∧
    (t.toNat % 4 = 0 → s.cfg.methodCache = true → 0x20000 ≤ b.toNat →
      (b.toNat % 4 ≠ 0 → s.enterBlock b t = .refuse .misalignedTarget) ∧
      (b.toNat % 4 = 0 →
        (s.translate .execute (b - 4) = none → s.enterBlock b t = .fault) ∧
        (∀ w, s.translate .execute (b - 4) = some w → 0x80000000 ≤ w.toNat ∨ s.cfg.memSize < w.toNat + 4 →
          s.enterBlock b t = .refuse .unmappedCode) ∧
        ∀ pb, s.reaches .execute (b - 4) 4 pb →
          ((∃ k, k < 4 ∧ s.marks.icStale.read (pb + k) ≠ 0 ∧ s.marks.icStale.read (pb + k) ≠ 2) →
            s.enterBlock b t = .refuse .staleCode) ∧
          ∀ n : Word, (∀ k, k < 4 → s.marks.icStale.read (pb + k) = 0 ∨ s.marks.icStale.read (pb + k) = 2) →
            n = bigWord (fun k => s.mem.gm.read (pb + k)) →
            (n.toNat = 0 ∨ n.toNat % 4 ≠ 0 ∨ s.cfg.icacheSize < n.toNat →
              s.enterBlock b t = .refuse .badSizeWord) ∧
            (n.toNat ≠ 0 → n.toNat % 4 = 0 → n.toNat ≤ s.cfg.icacheSize →
              (∀ i, i < n.toNat / 4 →
                (∀ j, j < i → ∃ pa, s.reaches .execute (b + BitVec.ofNat 32 (4 * j)) 4 pa) →
                (s.translate .execute (b + BitVec.ofNat 32 (4 * i)) = none → s.enterBlock b t = .fault) ∧
                (∀ w, s.translate .execute (b + BitVec.ofNat 32 (4 * i)) = some w →
                  0x80000000 ≤ w.toNat ∨ s.cfg.memSize < w.toNat + 4 → s.enterBlock b t = .refuse .unmappedCode)) ∧
              ∀ pa : Nat → Nat, (∀ i, i < n.toNat / 4 → s.reaches .execute (b + BitVec.ofNat 32 (4 * i)) 4 (pa i)) →
                (n.toNat ≤ (t - b).toNat → s.enterBlock b t = .refuse .outsideBlock) ∧
                ((t - b).toNat < n.toNat →
                  ∃ x, s.enterBlock b t = .entered { s with
                      base := b
                      blockSize := some n
                      marks := { s.marks with icStale := x, ispmStale := [] } } ∧
                    (s.marks.icStale.wf → ∀ a,
                      (s.marks.icStale.read a = 2 ∧ (∃ i, i < n.toNat / 4 ∧ pa i ≤ a ∧ a < pa i + 4) →
                        x.read a = 0) ∧
                      (¬ (s.marks.icStale.read a = 2 ∧ ∃ i, i < n.toNat / 4 ∧ pa i ≤ a ∧ a < pa i + 4) →
                        x.read a = s.marks.icStale.read a))))))

/-- Non-delayed calls and returns. A call, through an immediate or a register, puts the caller's base and the offset of
the next bundle in `srb` and `sro` and enters the callee's block; a return goes to base plus offset, from `srb` and
`sro` or, with the status shifted right by two, from `sxb` and `sxo`; nothing else changes (49_control_flow R355, R360,
R366, R368, R370; 60_exceptions R404, R422). Where the block cannot be entered (`EnterBlock`) the transfer is refused for
the same reason; that a denied cache fill raises `IllegalMemoryAccess` as the transfer's own fault is the model's
choice, log entry 35. -/
def Obligations.NonDelayedCallsAndReturns : Prop :=
  ∀ (g : PredOp) (imm : BitVec 22) (rs : GReg) (s c r : State) (x : Word), s.ready g [rs] → s.pending = none →
    c = { s with sp := { s.sp with srb := s.base, sro := s.nextPc - s.base } } →
    r = { s with exc := { s.exc with status := s.exc.status >>> 2 } } →
    (∀ i : Instr, (i = .callnd g imm ∧ x = BitVec.ofNat 32 (4 * imm.toNat)) ∨ (i = .callndR g rs ∧ x = s.reg rs) →
      (∀ u, c.enterBlock x x = .entered u → c.inBlockOf u x ∧ exec i s = .next { u with nextPc := x }) ∧
      (∀ why, c.enterBlock x x = .refuse why → exec i s = .refused why) ∧
      (c.enterBlock x x = .fault → exec i s = s.illegalAccess)) ∧
    (x = s.sp.srb + s.sp.sro →
      (∀ u, s.enterBlock s.sp.srb x = .entered u →
        s.inBlockOf u s.sp.srb ∧ exec (.retnd g) s = .next { u with nextPc := x }) ∧
      (∀ why, s.enterBlock s.sp.srb x = .refuse why → exec (.retnd g) s = .refused why) ∧
      (s.enterBlock s.sp.srb x = .fault → exec (.retnd g) s = s.illegalAccess)) ∧
    (x = s.sp.sxb + s.sp.sxo →
      (∀ u, r.enterBlock s.sp.sxb x = .entered u →
        r.inBlockOf u s.sp.sxb ∧ exec (.xretnd g) s = .next { u with nextPc := x }) ∧
      (∀ why, r.enterBlock s.sp.sxb x = .refuse why → exec (.xretnd g) s = .refused why) ∧
      (r.enterBlock s.sp.sxb x = .fault → exec (.xretnd g) s = s.illegalAccess))

/-- Non-delayed branches, and the bounds of a block. With cache fill, the block is entered and the target is next; local,
the target, relative to the branch or in a register, is next if it is aligned and may be reached in the current block;
nothing else changes (49_control_flow R362, R364, R372, R374). A misaligned base or target is refused (20_memory R69).
Under the method cache an address outside `[base, base + size)` may not be reached and a branch there is refused; there
are no bounds with a traditional cache (20_memory R83 b, R84; 70_reset_and_hazards R487). The model's choices: that in
the boot ROM and the instruction scratchpad, which have no bounds (49_control_flow R353), external memory is not reached,
log entry 15; that a denied cache fill is the branch's own fault, log entry 35. -/
def Obligations.NonDelayedBranches : Prop :=
  (∀ (s : State) (x : Word),
    (s.cfg.methodCache = false → s.leavesBlock x = none) ∧
    (s.cfg.methodCache = true →
      (∀ n : Word, s.blockSize = some n → s.base.toNat + n.toNat ≤ 2 ^ 32 →
        (s.base.toNat ≤ x.toNat ∧ x.toNat < s.base.toNat + n.toNat → s.leavesBlock x = none) ∧
        (x.toNat < s.base.toNat ∨ s.base.toNat + n.toNat ≤ x.toNat → s.leavesBlock x = some .outsideBlock)) ∧
      (s.blockSize = none → s.base.toNat < 0x20000 →
        (x.toNat < 0x20000 → s.leavesBlock x = none) ∧
        (0x20000 ≤ x.toNat → s.leavesBlock x = some .outsideBlock)))) ∧
  ∀ (g : PredOp) (imm : BitVec 22) (rs1 rs2 : GReg) (s : State) (x : Word), s.ready g [rs1, rs2] → s.pending = none →
    (∀ (b : Word) (i : Instr),
      (i = .brcfnd g imm ∧ b = BitVec.ofNat 32 (4 * imm.toNat) ∧ x = b) ∨
        (i = .brcfndR g rs1 rs2 ∧ b = s.reg rs1 ∧ x = b + s.reg rs2) →
      (b.toNat % 4 ≠ 0 → exec i s = .refused .misalignedTarget) ∧
      (b.toNat % 4 = 0 →
        (∀ u, s.enterBlock b x = .entered u → s.inBlockOf u b ∧ exec i s = .next { u with nextPc := x }) ∧
        (∀ why, s.enterBlock b x = .refuse why → exec i s = .refused why) ∧
        (s.enterBlock b x = .fault → exec i s = s.illegalAccess))) ∧
    (∀ i : Instr, (i = .brnd g imm ∧ x = s.pc + BitVec.ofInt 32 (4 * imm.toInt)) ∨ (i = .brndR g rs1 ∧ x = s.reg rs1) →
      (x.toNat % 4 ≠ 0 → exec i s = .refused .misalignedTarget) ∧
      (x.toNat % 4 = 0 → ∀ why, s.leavesBlock x = some why → exec i s = .refused why) ∧
      (x.toNat % 4 = 0 → s.leavesBlock x = none → exec i s = .next { s with nextPc := x }))

/-- Delayed transfers: executing one only records it, with 2 delay-slot bundles for `br` and 3 for the others, its
target and base read now; the target (for `brcf` the base too) must be a multiple of 4 and, for `br`, in the current
block, else it is refused (10_state R36; 20_memory R69, R83 b; 49_control_flow R352, R361, R363, R365, R367, R369, R371,
R373, R375). -/
def Obligations.DelayedTransfersRecorded : Prop :=
  ∀ (g : PredOp) (imm : BitVec 22) (rs1 rs2 : GReg) (s : State) (x : Word), s.ready g [rs1, rs2] →
    s.pending = none →
    (x = BitVec.ofNat 32 (4 * imm.toNat) →
      exec (.call g imm) s = .next { s with pending := some ⟨3, x, x, .call⟩ } ∧
      exec (.brcf g imm) s = .next { s with pending := some ⟨3, x, x, .brcf⟩ }) ∧
    (∀ (i : Instr) (b : Word) (k : TransferKind),
      (i = .callR g rs1 ∧ x = s.reg rs1 ∧ b = x ∧ k = .call) ∨
        (i = .brcfR g rs1 rs2 ∧ x = s.reg rs1 + s.reg rs2 ∧ b = s.reg rs1 ∧ k = .brcf) ∨
        (i = .ret g ∧ x = s.sp.srb + s.sp.sro ∧ b = s.sp.srb ∧ k = .ret) ∨
        (i = .xret g ∧ x = s.sp.sxb + s.sp.sxo ∧ b = s.sp.sxb ∧ k = .xret) →
      (x.toNat % 4 = 0 → (k = .brcf → b.toNat % 4 = 0) →
        exec i s = .next { s with pending := some ⟨3, x, b, k⟩ }) ∧
      (x.toNat % 4 ≠ 0 ∨ k = .brcf ∧ b.toNat % 4 ≠ 0 → exec i s = .refused .misalignedTarget)) ∧
    (∀ i : Instr, (i = .br g imm ∧ x = s.pc + BitVec.ofInt 32 (4 * imm.toInt)) ∨ (i = .brR g rs1 ∧ x = s.reg rs1) →
      (x.toNat % 4 = 0 → s.leavesBlock x = none → exec i s = .next { s with pending := some ⟨2, x, s.base, .br⟩ }) ∧
      (x.toNat % 4 ≠ 0 → s.leavesBlock x = none → exec i s = .refused .misalignedTarget) ∧
      (∀ why, s.leavesBlock x = some why → exec i s = .refused why))

/-- An enabled control-flow instruction in a delay slot is refused; where it reads a register in its load delay slot,
or a misaligned target, or leaves the block, it is refused too, for that (49_control_flow R356). -/
def Obligations.ControlFlowInDelaySlotRefused : Prop :=
  ∀ (i : Instr) (s : State), i.transfers → s.ps i.guard = true → s.pending ≠ none → ∃ why, exec i s = .refused why

/-! ### Bundles -/

/-- What ends a bundle that entered no handler, unless it is the last delay slot of a transfer: the next bundle in
sequence (or the target of a non-delayed transfer) is next, a pending transfer has one delay slot less, a load's mark
lasts one bundle, the multiply window shrinks by one bundle, and nothing else changes (49_control_flow R352;
46_load R282; 41_multiply R222). -/
def Obligations.BundleEndsInSequence : Prop :=
  ∀ (s t : State) (loaded multiplied : Bool), t.excEntered = false →
    (s.pending = none →
      s.finish loaded multiplied (.next t) =
        .next { t with pc := t.nextPc
                       nextPc := t.nextPc + 4
                       loadShadow := if loaded then t.loadShadow else none
                       mulShadow := if multiplied then t.mulShadow else s.mulShadow - 1 }) ∧
    (∀ p, s.pending = some p → 1 < p.remaining →
      s.finish loaded multiplied (.next t) =
        .next { t with pc := t.nextPc
                       nextPc := t.nextPc + 4
                       pending := some { p with remaining := p.remaining - 1 }
                       loadShadow := if loaded then t.loadShadow else none
                       mulShadow := if multiplied then t.mulShadow else s.mulShadow - 1 })

/-- After the last delay slot the transfer happens: the target is next; a `call` writes the return information, its
offset that of the bundle after the delay slots; an `xret` restores the status; all but `br` enter the target's block;
nothing else changes (49_control_flow R352, R354, R355, R369). -/
def Obligations.DelayedTransferHappens : Prop :=
  ∀ (s t u : State) (p : Pending) (loaded multiplied : Bool), s.pending = some p → p.remaining ≤ 1 →
    t.excEntered = false →
    (p.kind ≠ .br →
      ({ t with sp := if p.kind = .call then { t.sp with srb := t.base, sro := t.nextPc - t.base } else t.sp
                exc := if p.kind = .xret then { t.exc with status := t.exc.status >>> 2 } else t.exc
                loadShadow := if loaded then t.loadShadow else none
                mulShadow := if multiplied then t.mulShadow else s.mulShadow - 1 } : State).enterBlock
          p.base p.target = .entered u →
      s.finish loaded multiplied (.next t) =
        .next { u with pc := p.target, nextPc := p.target + 4, pending := none, excEntered := false }) ∧
    (p.kind = .br →
      s.finish loaded multiplied (.next t) =
        .next { t with pc := p.target, nextPc := p.target + 4, pending := none
                       loadShadow := if loaded then t.loadShadow else none
                       mulShadow := if multiplied then t.mulShadow else s.mulShadow - 1 })

/-- Two instructions of one bundle both read the state before the bundle, and the second's one destination is written
beside what the first does (30_encoding R127). -/
def Obligations.BundleReadsBeforeItWrites : Prop :=
  ∀ (i j : Instr) (s t u : State), exec i s = .next t → exec j s = .next u → t.excEntered = false →
    s.twoWriters i j = false →
    (∀ rd, s.ps j.guard = true → j.destReg = some rd → execPair i j s = .next (t.setReg rd (u.reg rd))) ∧
    (∀ pd, s.ps j.guard = true → j.destReg = none → j.destPred = some pd →
      execPair i j s = .next (t.setPred pd (u.pred pd))) ∧
    (s.ps j.guard = false → execPair i j s = .next t)

/-- A bundle whose two enabled instructions name one destination register other than r0, or one destination predicate
other than p0, has no meaning; two writes to r0 or to p0 are no conflict (10_state R42). -/
def Obligations.TwoWritersRefused : Prop :=
  ∀ (i j : Instr) (s : State), s.ps i.guard = true → s.ps j.guard = true →
    ((∃ r, r ≠ 0 ∧ i.destReg = some r ∧ j.destReg = some r) ∨ (∃ p, p ≠ 0 ∧ i.destPred = some p ∧ j.destPred = some p) →
      execPair i j s = .refused .twoWriters) ∧
    (i.destReg = some 0 ∧ j.destReg = some 0 ∨ i.destPred = some 0 ∧ j.destPred = some 0 →
      execPair i j s ≠ .refused .twoWriters)

/-! ### Exceptions and interrupts -/

/-- `trap` enters the handler its operand names, to return to the word after it, whatever the mode and the masks; a
number beyond the vectors, or a `trap` beside another instruction, is refused (49_control_flow R380;
60_exceptions R420). -/
def Obligations.TrapEntersHandler : Prop :=
  ∀ (g : PredOp) (imm : BitVec 22) (s : State), s.ps g = true → s.pending = none →
    (∀ n : Fin 32, imm.toNat = n.val → s.nextPc = s.pc + 4 → s.handlerReady n →
      ∃ t, exec (.trap g imm) s = .next t ∧ s.enteredHandler t n (s.pc + 4)) ∧
    (32 ≤ imm.toNat → exec (.trap g imm) s = .refused .trapNumber) ∧
    (imm.toNat < 32 → s.nextPc ≠ s.pc + 4 → exec (.trap g imm) s = .refused .trapNotAlone)

/-- The return address of each class of exception: the bundle not executed, for an interrupt; the bundle itself, for a
fault; the word after it, for a trap. It is `sxb + sxo`, with `sxb` the base of the interrupted code (60_exceptions
R421). -/
def Obligations.ReturnAddressOfExceptions : Prop :=
  (∀ (s t : State) (i : Fin 16) (bit : Nat), s.takeInterrupt i bit = .next t →
    t.sp.sxb = s.base ∧ t.sp.sxb + t.sp.sxo = s.pc ∧ t.excReturnTarget = s.pc) ∧
  (∀ (s t : State) (n : Fin 32), s.raise n = .next t →
    t.sp.sxb = s.base ∧ t.sp.sxb + t.sp.sxo = s.pc ∧ t.excReturnTarget = s.pc) ∧
  (∀ (s t : State) (g : PredOp) (imm : BitVec 22), s.ps g = true → exec (.trap g imm) s = .next t →
    t.sp.sxb = s.base ∧ t.sp.sxb + t.sp.sxo = s.pc + 4 ∧ t.excReturnTarget = s.pc + 4)

/-- An instruction that decodes and whose execution enters a handler is a `trap`, or makes an illegal access, and then
nothing of it takes effect but exception entry with the bundle's own address as return address; that a non-delayed
transfer whose cache fill is denied is such an instruction is the model's choice, log entry 35. Of two instructions
executed together only the first can enter a handler, and then the second has no effect. (A word that does not decode
raises `IllegalOperation`: `IllegalEncodings`.) A fault whose handler can be entered does enter it, but in a delay slot
it is refused. A denied fetch raises `IllegalMemoryAccess`; if only that of the second word is denied and the first is
an enabled illegal word, the bundle raises `IllegalOperation` (60_exceptions R402 c, R413, R414, R420;
49_control_flow R356; 20_memory R102). -/
def Obligations.FaultsArePrecise : Prop :=
  (∀ (i : Instr) (s t : State), s.excEntered = false → exec i s = .next t → t.excEntered = true →
    (∃ g imm, i = .trap g imm) ∨ (s.pending = none ∧ s.illegalAccess = .next t ∧ s.enteredHandler t 1 s.pc)) ∧
  (∀ (i j : Instr) (s t : State), execPair i j s = .next t → t.excEntered = true → exec i s = .next t) ∧
  (∀ (s : State) (n : Fin 32), s.pending ≠ none → s.raise n = .refused .faultInDelaySlot) ∧
  (∀ (s : State) (n : Fin 32), s.pending = none → s.handlerReady n →
    ∃ t, s.raise n = .next t ∧ s.enteredHandler t n s.pc) ∧
  (∀ s : State, s.dueInterrupt = none → s.sleeping = false → s.unentered = false →
    (s.fetchWord s.pc = .fault →
      step s = ticked ((s.begin 4).finish false false (s.begin 4).illegalAccess)) ∧
    (∀ w, s.fetchWord s.pc = .word w → sizeFlag w = true → s.fetchWord (s.pc + 4) = .fault →
      (illegalWord w ∧ s.ps (guardOf w) = true →
        step s = ticked ((s.begin 8).finish false false (s.begin 8).illegalOperation)) ∧
      (¬ (illegalWord w ∧ s.ps (guardOf w) = true) →
        step s = ticked ((s.begin 4).finish false false (s.begin 4).illegalAccess))))

/-- Returns undo what they return from. After exception entry the core is privileged with interrupts disabled, a return
would restore the status but for its two oldest bits, and go to the return address. A call, if it happens, makes a
return go back, in the caller's block: a non-delayed call to the bundle after it; a delayed call, at the end of its last
delay slot, to the bundle after that (60_exceptions R404, R420, R422; 49_control_flow R355, R366). -/
def Obligations.ReturnsUndoEntries : Prop :=
  (∀ (s t : State) (n : Fin 32) (ret : Word), s.takeException n ret = .next t →
    t.exc.status.getLsbD 0 = false ∧ t.userMode = false ∧
    t.restoreStatus.exc.status = s.exc.status &&& 0x3fffffff ∧ t.excReturnTarget = ret ∧ t.sp.sxb = s.base ∧
    t.sp.srb = s.sp.srb ∧ t.sp.sro = s.sp.sro ∧ t.regs = s.regs ∧ t.preds = s.preds ∧ t.mulShadow = s.mulShadow) ∧
  (∀ (g : PredOp) (imm : BitVec 22) (rs : GReg) (s t : State), s.ps g = true → t.excEntered = false →
    (exec (.callnd g imm) s = .next t ∨ exec (.callndR g rs) s = .next t) →
    t.returnTarget = s.nextPc ∧ t.sp.srb = s.base) ∧
  (∀ (s t u : State) (p : Pending) (loaded multiplied : Bool), s.pending = some p → p.kind = .call →
    p.remaining ≤ 1 → t.excEntered = false → s.finish loaded multiplied (.next t) = .next u →
    u.returnTarget = t.nextPc ∧ u.sp.srb = t.base ∧ u.pc = p.target ∧ u.base = p.base)

/-- Which interrupt is taken at a boundary where one can be: none if interrupts are disabled or none is requested and
unmasked, else the lowest-numbered, as exception 16 + i (60_exceptions R417). -/
def Obligations.InterruptSelection : Prop :=
  ∀ s : State, s.pending = none → s.mulShadow = 0 →
    (∀ i : Fin 16, s.dueInterrupt = some i ↔
      s.exc.status.getLsbD 0 = true ∧ (s.exc.pend &&& s.exc.mask).getLsbD (s.cfg.intrBit i.val) = true ∧
        ∀ j : Fin 16, j < i → (s.exc.pend &&& s.exc.mask).getLsbD (s.cfg.intrBit j.val) = false) ∧
    (s.dueInterrupt = none ↔
      s.exc.status.getLsbD 0 = false ∨
        ∀ i : Fin 16, (s.exc.pend &&& s.exc.mask).getLsbD (s.cfg.intrBit i.val) = false) ∧
    (∀ (i : Fin 16) (bit : Nat) (t : State), s.takeInterrupt i bit = .next t →
      t.exc.source = BitVec.ofNat 32 (16 + i.val) ∧ t.exc.status.getLsbD 0 = false ∧ t.dueInterrupt = none)

/-- No interrupt is taken while interrupts are disabled, a transfer is pending or a multiply is in flight. A step that
takes no interrupt runs the bundle at `pc`, or, in a sleeping core, executes nothing: time passes and all state is kept
(60_exceptions R408, R416). That time passes in steps of a free length is the model's choice, log entries 6 and 20. -/
def Obligations.InterruptsWait : Prop :=
  (∀ s : State, s.pending ≠ none ∨ s.mulShadow ≠ 0 ∨ s.exc.status.getLsbD 0 = false → s.dueInterrupt = none) ∧
  (∀ s : State, s.dueInterrupt = none → s.sleeping = false → step s = ticked s.runBundle) ∧
  (∀ s : State, s.dueInterrupt = none → s.sleeping = true → step s = .next s.tick)

/-- Taking an interrupt is a step of its own: the handler is entered, to return to the bundle not executed, the
interrupt's pending flag is cleared, and a sleeping core wakes (60_exceptions R406, R408, R416, R420, R421). -/
def Obligations.InterruptStep : Prop :=
  ∀ (s : State) (i : Fin 16), s.dueInterrupt = some i → s.handlerReady (Fin.ofNat 32 (16 + i.val)) →
    ∃ t, s.enteredHandler t (Fin.ofNat 32 (16 + i.val)) s.pc ∧
      step s = .next { t with
        pc := s.exc.vec[Fin.ofNat 32 (16 + i.val)]
        nextPc := s.exc.vec[Fin.ofNat 32 (16 + i.val)] + 4
        excEntered := false
        sleeping := false
        exc := { t.exc with pend := s.exc.pend &&& ~~~(1#32 <<< s.cfg.intrBit i.val) } }.tick

/-- The passing of `c` clock cycles: the timer's cycle counter advances by `c` and its microsecond counter by the
microseconds that end, the deadline counter goes down to 0 at most, the example counter goes up; a counter that reaches
its armed interrupt time requests interrupt 0 or 1 once and is disarmed; nothing else changes (60_exceptions R406, R443
to R448, R456). The end of a step: 1 plus a free number of cycles pass, the requests wired from outside are added to
`pend`, each UART present gets a byte if its host sends one, and the step counter advances; nothing else changes. The
model's choices: `FREQ` in MHz and the phase of the microsecond, log entry 7; the free length of a step, log entry 6;
the free requests and arrivals, log entries 8 and 9; a time equal to the counter is reached after a wrap, log entry
38. -/
def Obligations.TimePasses : Prop :=
  (∀ (s : State) (c d : Nat) (f0 f1 : Bool), d = (s.io.timer.usecPhase + c) / s.cfg.freq →
    (f0 = true ↔ ∃ j, 1 ≤ j ∧ j ≤ c ∧ s.io.timer.cycleTime = some (s.io.timer.cycles + BitVec.ofNat 64 j)) →
    (f1 = true ↔ ∃ j, 1 ≤ j ∧ j ≤ d ∧ s.io.timer.usecTime = some (s.io.timer.usecs + BitVec.ofNat 64 j)) →
    ∃ pend deadline,
      s.passTime c =
        { s with
          exc := { s.exc with pend := pend }
          io := { s.io with
            timer := { s.io.timer with
              cycles := s.io.timer.cycles + BitVec.ofNat 64 c
              usecs := s.io.timer.usecs + BitVec.ofNat 64 d
              usecPhase := (s.io.timer.usecPhase + c) % s.cfg.freq
              cycleTime := if f0 then none else s.io.timer.cycleTime
              usecTime := if f1 then none else s.io.timer.usecTime }
            deadline := deadline
            counter := s.io.counter + BitVec.ofNat 32 c } } ∧
      deadline.toNat = s.io.deadline.toNat - c ∧
      ∀ k, k < 32 → pend.getLsbD k =
        (s.exc.pend.getLsbD k || (f0 && k == s.cfg.intrBit 0) || (f1 && k == s.cfg.intrBit 1))) ∧
  (∀ s t : State, t = s.passTime (1 + Config.extraCycles s.ticks) → ∃ pend,
    s.tick =
      { t with
        exc := { t.exc with pend := pend }
        io := { t.io with
          uart := { t.io.uart with
            rx := t.io.uart.rx ++
              (if s.cfg.devices.uart.isSome then (Config.uartArrival false s.ticks).toList else []) }
          uart2 := { t.io.uart2 with
            rx := t.io.uart2.rx ++
              (if s.cfg.devices.uart2.isSome then (Config.uartArrival true s.ticks).toList else []) } }
        ticks := s.ticks + 1 } ∧
    (∀ i, i < 16 → pend.getLsbD (s.cfg.intrBit i) = (t.exc.pend.getLsbD (s.cfg.intrBit i) ||
      (decide (2 ≤ i) && s.cfg.intrInputs.getLsbD i && (Config.requests s.ticks).getLsbD i))) ∧
    ∀ k, (∀ i, i < 16 → k ≠ s.cfg.intrBit i) → pend.getLsbD k = t.exc.pend.getLsbD k)

/-! ### Steps -/

/-- A step runs the decoded instruction, with the address of the next bundle known: an instruction of one word; an
instruction and its long immediate, the word after it; two instructions of one word each. Then the bundle ends, and
time passes. Two instructions are refused on a machine with one pipeline, and so is a second instruction of a format
that may not stand there (30_encoding R120, R121, R126, R127, R130; 49_control_flow R352); that the latter is refused
before the first word is looked at, and not an illegal operation, is the model's choice, log entry 12. Where the block
at `base` has not been entered, after a reset into external memory, the step is that of the state in which it is, the
model's reading of 20_memory R83 a, log entry 15. A fetch reads, big-endian, the boot ROM below 0x10000, the instruction
scratchpad below 0x20000, and external memory above, where the MMU may deny it; a fetch outside the block or of no
existing memory is refused, and so is one of a byte stored and not yet visible, which the model's own marks say, log
entry 14 (20_memory R64, R66, R77, R83 b, R85, R101, R102). -/
def Obligations.StepRunsDecodedInstruction : Prop :=
  (∀ (s : State) (a : Word), (∀ why, s.leavesBlock a = some why → s.fetchWord a = .refuse why) ∧
    (s.leavesBlock a = none →
      (a.toNat < 0x10000 → s.fetchWord a = .word (bigWord (fun k => s.mem.bootRom.read (a.toNat + k)))) ∧
      (∀ off, a.toNat = 0x10000 + off → off < 0x10000 →
        (s.cfg.ispmSize < off + 4 → s.fetchWord a = .refuse .unmappedCode) ∧
        (off + 4 ≤ s.cfg.ispmSize → (∃ k, k < 4 ∧ s.marks.ispmStale.read (off + k) ≠ 0) →
          s.fetchWord a = .refuse .staleCode) ∧
        (off + 4 ≤ s.cfg.ispmSize → (∀ k, k < 4 → s.marks.ispmStale.read (off + k) = 0) →
          s.fetchWord a = .word (bigWord (fun k => s.mem.ispm.read (off + k))))) ∧
      (0x20000 ≤ a.toNat →
        (s.translate .execute a = none → s.fetchWord a = .fault) ∧
        (∀ w, s.translate .execute a = some w → 0x80000000 ≤ w.toNat ∨ s.cfg.memSize < w.toNat + 4 →
          s.fetchWord a = .refuse .unmappedCode) ∧
        (∀ pa, s.reaches .execute a 4 pa →
          ((∃ k, k < 4 ∧ s.marks.icStale.read (pa + k) ≠ 0) → s.fetchWord a = .refuse .staleCode) ∧
          ((∀ k, k < 4 → s.marks.icStale.read (pa + k) = 0) →
            s.fetchWord a = .word (bigWord (fun k => s.mem.gm.read (pa + k)))))))) ∧
  (∀ s t : State, s.dueInterrupt = none → s.sleeping = false → s.unentered = true →
    s.enterBlock s.base s.pc = .entered t → t.unentered = false ∧ step s = step t) ∧
  ∀ (s : State) (w : Word), s.dueInterrupt = none → s.sleeping = false → s.unentered = false →
    s.fetchWord s.pc = .word w →
    (∀ i, sizeFlag w = false → decode w 0 = .ok i →
      step s = ticked ((s.begin 4).finish (i.format == .ldt && (s.begin 4).ps i.guard)
        (i.format == .aluM && (s.begin 4).ps i.guard)
        (exec i { s with nextPc := s.pc + 4, excEntered := false }))) ∧
    (∀ v i, s.fetchWord (s.pc + 4) = .word v → decode w v = .ok i → i.format = .aluL →
      step s = ticked ((s.begin 8).finish false false
        (exec i { s with nextPc := s.pc + 8, excEntered := false }))) ∧
    (∀ w1 i j, s.fetchWord (s.pc + 4) = .word w1 → sizeFlag w = true → decode w 0 = .ok i → decode w1 0 = .ok j →
      i.format ≠ .aluL → s.cfg.dualIssue = true → s.cfg.allowsSecond j.format = true →
      step s = ticked ((s.begin 8).finish (i.format == .ldt && (s.begin 8).ps i.guard)
        (i.format == .aluM && (s.begin 8).ps i.guard)
        (execPair i j { s with nextPc := s.pc + 8, excEntered := false }))) ∧
    (∀ w1, s.fetchWord (s.pc + 4) = .word w1 → sizeFlag w = true → formatOf w ≠ some .aluL →
      (s.cfg.dualIssue = false → step s = .refused .singleIssue) ∧
      (s.cfg.dualIssue = true → ∀ f, formatOf w1 = some f → s.cfg.allowsSecond f = false →
        step s = .refused .secondSlotFormat))

/-- The invariant of the machine holds after reset. -/
def Obligations.InvariantHoldsAtReset : Prop := State.reset.Inv

/-- Every step keeps the invariant: the memories stay in canonical form, the program counter stays word aligned, a
pending transfer stays well formed, r0 is never marked as being loaded, the multiply window stays within its length.
`s` is any state that meets the invariant, reached or not (10_state R22, R36 to R38; 20_memory R69). -/
def Obligations.InvariantKeptByEveryStep : Prop := ∀ s t : State, s.Inv → step s = .next t → t.Inv

/-- The state after reset: the values are the spec's own decision D15, log entry 3, but for privileged mode, which the
sources give (70_reset_and_hazards R470, R471; 10_state R44); the example counter is 0 (60_exceptions R456), a device
of the model's own option, log entry 28. The default configuration has the six devices of Table 3.3, at its offsets, and
nothing at any other offset (60_exceptions R439). -/
def Obligations.ResetState : Prop :=
  State.reset.pc = State.reset.cfg.entry ∧ State.reset.base = State.reset.cfg.entry ∧ State.reset.pending = none ∧
    State.reset.loadShadow = none ∧ State.reset.mulShadow = 0 ∧ State.reset.exc.status = 2 ∧
    State.reset.userMode = false ∧ State.reset.exc.mask = 0 ∧ State.reset.exc.pend = 0 ∧
    State.reset.sleeping = false ∧ State.reset.exc.localMode = false ∧ State.reset.io.counter = 0 ∧
    ∀ k : Fin 16, State.reset.cfg.deviceAt k =
      if k = 0 then some .cpuInfo else if k = 1 then some .excUnit else if k = 2 then some .timer
      else if k = 8 then some .uart else if k = 9 then some .leds else if k = 10 then some .keys else none

end
end

