-- ==== Sys2Proof/Laws/Memory.lean ====
section
/-! SUPPORT. The laws of a memory: what is read after a write, and that every operation keeps the canonical form. -/
namespace Sys2Proof.Machine

/-! ### Reading after writing -/

@[simp] theorem Memory.read_nil (a : Nat) : Memory.read [] a = 0 := rfl

theorem Memory.read_cons (k : Nat) (v : Byte) (m : Memory) (a : Nat) :
    Memory.read ((k, v) :: m) a = if k = a then v else Memory.read m a := rfl

theorem Memory.read_erase (m : Memory) (a c : Nat) : (m.erase a).read c = if c = a then 0 else m.read c := by
  induction m with
  | nil => simp [Memory.erase]
  | cons h t ih =>
    obtain ⟨k, v⟩ := h
    by_cases hk : k = a
    · subst hk
      have : Memory.erase ((k, v) :: t) k = Memory.erase t k := by simp [Memory.erase]
      rw [this, ih, Memory.read_cons]
      by_cases hc : c = k
      · simp [hc]
      · simp [hc, Ne.symm hc]
    · have : Memory.erase ((k, v) :: t) a = (k, v) :: Memory.erase t a := by simp [Memory.erase, hk]
      rw [this, Memory.read_cons, Memory.read_cons, ih]
      by_cases hc : c = a
      · subst hc; simp [hk]
      · simp [hc]

theorem Memory.erase_lacks (m : Memory) (a : Nat) : ∀ c ∈ m.erase a, c.1 ≠ a := by
  intro c hc
  simpa using (List.mem_filter.mp hc).2

theorem Memory.read_insert (m : Memory) (a : Nat) (b : Byte) (c : Nat) (lacks : ∀ d ∈ m, d.1 ≠ a) :
    (Memory.insert a b m).read c = if c = a then b else m.read c := by
  induction m with
  | nil =>
    simp only [Memory.insert, Memory.read_cons, Memory.read_nil]
    by_cases hc : c = a
    · simp [hc]
    · simp [hc, Ne.symm hc]
  | cons h t ih =>
    obtain ⟨k, v⟩ := h
    have hk : k ≠ a := lacks (k, v) (by simp)
    have ht := ih (fun d hd => lacks d (by simp [hd]))
    unfold Memory.insert
    split
    · rw [Memory.read_cons]
      by_cases hc : c = a
      · simp [hc]
      · simp [hc, Ne.symm hc]
    · rw [Memory.read_cons, Memory.read_cons, ht]
      by_cases hc : c = a
      · subst hc; simp [hk]
      · simp [hc]

/-- What one written byte changes: its own address, and no other. -/
theorem Memory.read_write (m : Memory) (a : Nat) (b : Byte) (c : Nat) :
    (m.write a b).read c = if c = a then b else m.read c := by
  unfold Memory.write
  split
  · rename_i hb; rw [Memory.read_erase, hb]
  · rw [Memory.read_insert _ _ _ _ (m.erase_lacks a), Memory.read_erase]
    by_cases hc : c = a <;> simp [hc]

theorem Memory.read_write_same (m : Memory) (a : Nat) (b : Byte) : (m.write a b).read a = b := by
  simp [Memory.read_write]

theorem Memory.read_write_ne (m : Memory) (a : Nat) (b : Byte) (c : Nat) (h : c ≠ a) :
    (m.write a b).read c = m.read c := by
  simp [Memory.read_write, h]

/-- A byte outside the written addresses reads as before. -/
theorem Memory.read_writeAll_other (as : List Nat) : ∀ (m : Memory) (bs : List Byte) (c : Nat), c ∉ as →
    (m.writeAll as bs).read c = m.read c := by
  induction as with
  | nil => intro m bs c _; rfl
  | cons a as ih =>
    intro m bs c h
    cases bs with
    | nil => rfl
    | cons b bs =>
      simp only [List.mem_cons, not_or] at h
      rw [Memory.writeAll, ih _ _ _ h.2, Memory.read_write_ne _ _ _ _ h.1]

/-- Distinct addresses read back the bytes written to them. -/
theorem Memory.map_read_writeAll (as : List Nat) : ∀ (m : Memory) (bs : List Byte), as.Nodup →
    as.length = bs.length → as.map (m.writeAll as bs).read = bs := by
  induction as with
  | nil => intro m bs _ h; cases bs with | nil => rfl | cons _ _ => simp at h
  | cons a as ih =>
    intro m bs nd h
    cases bs with
    | nil => simp at h
    | cons b bs =>
      have nd' := List.nodup_cons.mp nd
      simp only [List.length_cons, Nat.succ.injEq] at h
      rw [Memory.writeAll, List.map_cons, ih _ _ nd'.2 h,
        Memory.read_writeAll_other _ _ _ _ nd'.1, Memory.read_write_same]

@[simp] theorem length_bytesOf (n : Nat) (w : Word) : (bytesOf n w).length = n := by simp [bytesOf]

@[simp] theorem length_span (a n : Nat) : (span a n).length = n := by simp [span]

theorem mem_span (a n c : Nat) : c ∈ span a n ↔ a ≤ c ∧ c < a + n := by
  simp only [span, List.mem_map, List.mem_range]
  constructor
  · rintro ⟨i, hi, rfl⟩; omega
  · intro h; exact ⟨c - a, by omega, by omega⟩

theorem nodup_span (a n : Nat) : (span a n).Nodup := by
  refine List.pairwise_map.mpr (List.Pairwise.imp ?_ (List.nodup_range (n := n)))
  intro x y h
  omega

/-- A byte outside the stored addresses reads as before. -/
theorem Memory.read_writeWord_other (m : Memory) (as : List Nat) (v : Word) (c : Nat) (h : c ∉ as) :
    (m.writeWord as v).read c = m.read c :=
  Memory.read_writeAll_other as m _ c h

/-- The stored addresses read back the stored bytes, the most significant first. -/
theorem Memory.map_read_writeWord (m : Memory) (as : List Nat) (v : Word) (nd : as.Nodup) :
    as.map (m.writeWord as v).read = bytesOf as.length v :=
  Memory.map_read_writeAll as m _ nd (by simp)

theorem wordOf_bytesOf_four (v : Word) : wordOf (bytesOf 4 v) = v := by
  apply BitVec.eq_of_getLsbD_eq
  intro i hi
  simp only [wordOf, bytesOf, List.range, List.range.loop, List.map, List.foldl, BitVec.getLsbD_or,
    BitVec.getLsbD_shiftLeft, BitVec.getLsbD_setWidth, BitVec.getLsbD_extractLsb']
  have : i < 8 ∨ (8 ≤ i ∧ i < 16) ∨ (16 ≤ i ∧ i < 24) ∨ (24 ≤ i) := by omega
  rcases this with h | h | h | h
  · simp [h, hi]
  · have a1 : ¬ i < 8 := by omega
    have a2 : i - 8 < 8 := by omega
    have a3 : 8 + (i - 8) = i := by omega
    have a4 : i - 8 < 32 := by omega
    simp [a1, a2, a3, a4, hi]
  · have a1 : ¬ i < 8 := by omega
    have a2 : ¬ i - 8 < 8 := by omega
    have a3 : i - 8 - 8 < 8 := by omega
    have a5 : 16 + (i - 8 - 8) = i := by omega
    have a6 : i - 8 < 32 := by omega
    have a7 : i - 8 - 8 < 32 := by omega
    simp [a1, a2, a3, a5, a6, a7, hi]
  · have a1 : ¬ i < 8 := by omega
    have a2 : ¬ i - 8 < 8 := by omega
    have a3 : ¬ i - 8 - 8 < 8 := by omega
    have a4 : i - 8 - 8 - 8 < 8 := by omega
    have a5 : 24 + (i - 8 - 8 - 8) = i := by omega
    have a6 : i - 8 < 32 := by omega
    have a7 : i - 8 - 8 < 32 := by omega
    have a8 : i - 8 - 8 - 8 < 32 := by omega
    simp [a1, a2, a3, a4, a5, a6, a7, a8, hi]

/-- A stored word is read back whole. -/
theorem Memory.readWord_writeWord_four (m : Memory) (as : List Nat) (v : Word) (nd : as.Nodup)
    (four : as.length = 4) : (m.writeWord as v).readWord as = v := by
  unfold Memory.readWord
  rw [Memory.map_read_writeWord m as v nd, four, wordOf_bytesOf_four]

/-- Words of disjoint addresses do not disturb each other. -/
theorem Memory.readWord_writeWord_other (m : Memory) (as cs : List Nat) (v : Word) (h : ∀ c ∈ cs, c ∉ as) :
    (m.writeWord as v).readWord cs = m.readWord cs := by
  unfold Memory.readWord
  congr 1
  exact List.map_congr_left (fun c hc => Memory.read_writeWord_other m as v c (h c hc))

/-! ### The canonical form -/

theorem Memory.wf_nil : Memory.wf [] := by simp [Memory.wf]

theorem Memory.wf_filter (m : Memory) (p : Host.Cell → Bool) (h : m.wf) : Memory.wf (m.filter p) :=
  ⟨h.1.sublist List.filter_sublist, fun c hc => h.2 c (List.mem_filter.mp hc).1⟩

theorem Memory.wf_erase (m : Memory) (a : Nat) (h : m.wf) : (m.erase a).wf := m.wf_filter _ h

theorem Memory.mem_insert (a : Nat) (b : Byte) (m : Memory) (c : Host.Cell) (h : c ∈ Memory.insert a b m) :
    c = (a, b) ∨ c ∈ m := by
  induction m with
  | nil => simpa [Memory.insert] using h
  | cons d t ih =>
    obtain ⟨k, v⟩ := d
    unfold Memory.insert at h
    split at h
    · simpa using h
    · rcases List.mem_cons.mp h with h | h
      · simp [h]
      · rcases ih h with h | h <;> simp [h]

theorem Memory.wf_insert (m : Memory) (a : Nat) (b : Byte) (hb : b ≠ 0) (lacks : ∀ d ∈ m, d.1 ≠ a) (h : m.wf) :
    (Memory.insert a b m).wf := by
  refine ⟨?_, fun c hc => ?_⟩
  · induction m with
    | nil => simp [Memory.insert]
    | cons d t ih =>
      obtain ⟨k, v⟩ := d
      have hp := List.pairwise_cons.mp h.1
      have hk : k ≠ a := lacks (k, v) (by simp)
      unfold Memory.insert
      split
      · rename_i lt
        refine List.pairwise_cons.mpr ⟨?_, h.1⟩
        intro c hc
        rcases List.mem_cons.mp hc with hc | hc
        · subst hc; exact lt
        · exact Nat.lt_trans lt (hp.1 c hc)
      · rename_i ge
        refine List.pairwise_cons.mpr ⟨?_, ih (fun d hd => lacks d (by simp [hd]))
          ⟨hp.2, fun c hc => h.2 c (by simp [hc])⟩⟩
        intro c hc
        rcases Memory.mem_insert a b t c hc with hc | hc
        · subst hc; simp only; omega
        · exact hp.1 c hc
  · rcases Memory.mem_insert a b m c hc with hc | hc
    · subst hc; exact hb
    · exact h.2 c hc

/-- Writing a byte keeps the canonical form. -/
theorem Memory.wf_write (m : Memory) (a : Nat) (b : Byte) (h : m.wf) : (m.write a b).wf := by
  unfold Memory.write
  split
  · exact m.wf_erase a h
  · rename_i hb
    exact Memory.wf_insert _ a b hb (m.erase_lacks a) (m.wf_erase a h)

theorem Memory.wf_writeAll (as : List Nat) : ∀ (m : Memory) (bs : List Byte), m.wf → (m.writeAll as bs).wf := by
  induction as with
  | nil => intro m bs h; exact h
  | cons a as ih =>
    intro m bs h
    cases bs with
    | nil => exact h
    | cons b bs => exact ih _ _ (m.wf_write a b h)

/-- Storing a value keeps the canonical form. -/
theorem Memory.wf_writeWord (m : Memory) (as : List Nat) (v : Word) (h : m.wf) : (m.writeWord as v).wf :=
  Memory.wf_writeAll as m _ h

theorem Memory.wf_fill (as : List Nat) : ∀ (m : Memory) (b : Byte), m.wf → (m.fill as b).wf := by
  induction as with
  | nil => intro m b h; exact h
  | cons a as ih => intro m b h; exact ih _ _ (m.wf_write a b h)

theorem Memory.wf_markCode (as : List Nat) : ∀ (m : Memory) (backed : Bool), m.wf → (m.markCode as backed).wf := by
  induction as with
  | nil => intro m b h; exact h
  | cons a as ih => intro m b h; exact ih _ _ (m.wf_write a _ h)

/-- Changing the bytes of a memory, none of them to 0, keeps the canonical form. -/
theorem Memory.wf_map (m : Memory) (f : Byte → Byte) (keeps : ∀ b, b ≠ 0 → f b ≠ 0) (h : m.wf) :
    Memory.wf (m.map (fun c => (c.1, f c.2))) := by
  refine ⟨?_, fun c hc => ?_⟩
  · exact List.pairwise_map.mpr h.1
  · obtain ⟨d, hd, rfl⟩ := List.mem_map.mp hc
    exact keeps d.2 (h.2 d hd)

/-- Two memories in canonical form that read alike are equal. -/
theorem Memory.eq_of_read (m : Memory) : ∀ (n : Memory), m.wf → n.wf → (∀ a, m.read a = n.read a) → m = n := by
  have head : ∀ (k : Nat) (v : Byte) (t : Memory), Memory.wf ((k, v) :: t) → ∀ a, a < k →
      Memory.read ((k, v) :: t) a = 0 := by
    intro k v t h a lt
    have : ∀ (u : Memory), (∀ c ∈ u, a < c.1) → u.read a = 0 := by
      intro u
      induction u with
      | nil => intro _; rfl
      | cons c u ih =>
        obtain ⟨j, w⟩ := c
        intro hu
        have hj : a < j := hu (j, w) (by simp)
        rw [Memory.read_cons, if_neg (by omega)]
        exact ih (fun c hc => hu c (by simp [hc]))
    apply this
    intro c hc
    rcases List.mem_cons.mp hc with hc | hc
    · subst hc; exact lt
    · exact Nat.lt_trans lt ((List.pairwise_cons.mp h.1).1 c hc)
  have tail : ∀ (k : Nat) (v : Byte) (t : Memory), Memory.wf ((k, v) :: t) → t.wf ∧ t.read k = 0 := by
    intro k v t h
    have hp := List.pairwise_cons.mp h.1
    refine ⟨⟨hp.2, fun c hc => h.2 c (by simp [hc])⟩, ?_⟩
    cases t with
    | nil => rfl
    | cons c u =>
      obtain ⟨j, w⟩ := c
      exact head j w u ⟨hp.2, fun c hc => h.2 c (by simp [hc])⟩ k (hp.1 (j, w) (by simp))
  induction m with
  | nil =>
    intro n _ hn same
    cases n with
    | nil => rfl
    | cons d t =>
      obtain ⟨k, v⟩ := d
      exact absurd ((same k).symm.trans rfl) (by simpa [Memory.read_cons] using hn.2 (k, v) (by simp))
  | cons c s ih =>
    obtain ⟨k, v⟩ := c
    intro n hm hn same
    have hv : v ≠ 0 := hm.2 (k, v) (by simp)
    cases n with
    | nil => exact absurd (same k) (by simpa [Memory.read_cons] using hv)
    | cons d t =>
      obtain ⟨j, w⟩ := d
      have hw : w ≠ 0 := hn.2 (j, w) (by simp)
      have e : k = j := by
        rcases Nat.lt_trichotomy k j with lt | e | gt
        · exact absurd ((same k).trans (head j w t hn k lt)) (by simpa [Memory.read_cons] using hv)
        · exact e
        · exact absurd ((same j).symm.trans (head k v s hm j gt)) (by simpa [Memory.read_cons] using hw)
      subst e
      have ev : v = w := by simpa [Memory.read_cons] using same k
      subst ev
      have hs := tail k v s hm
      have ht := tail k v t hn
      congr 1
      apply ih t hs.1 ht.1
      intro a
      by_cases ha : k = a
      · subst ha; rw [hs.2, ht.2]
      · simpa [Memory.read_cons, ha] using same a

/-! ### Words from bytes, and bytes filled -/

/-- The number that four bytes make is those bytes side by side (20_memory R66). -/
theorem wordOf_four (a b c d : Byte) : wordOf [a, b, c, d] = a ++ b ++ c ++ d := by
  apply BitVec.eq_of_getLsbD_eq
  intro i hi
  simp only [wordOf, List.foldl, BitVec.getLsbD_or, BitVec.getLsbD_shiftLeft, BitVec.getLsbD_setWidth,
    BitVec.getLsbD_append]
  by_cases h1 : i < 8
  · simp [h1, hi]
  have d1 : d.getLsbD i = false := BitVec.getLsbD_of_ge d i (by omega)
  by_cases h2 : i - 8 < 8
  · have : i - 8 < 32 := by omega
    simp [h1, h2, hi, this, d1]
  have c1 : c.getLsbD (i - 8) = false := BitVec.getLsbD_of_ge c _ (by omega)
  by_cases h3 : i - 8 - 8 < 8
  · have : i - 8 < 32 := by omega
    have : i - 8 - 8 < 32 := by omega
    simp [*]
  · have b1 : b.getLsbD (i - 8 - 8) = false := BitVec.getLsbD_of_ge b _ (by omega)
    have : i - 8 < 32 := by omega
    have : i - 8 - 8 < 32 := by omega
    have : i - 8 - 8 - 8 < 32 := by omega
    have : i - 8 - 8 - 8 < 8 := by omega
    simp [*]

theorem wordOf_two (a b : Byte) : (wordOf [a, b]).setWidth 16 = a ++ b := by
  apply BitVec.eq_of_getLsbD_eq
  intro i hi
  simp only [wordOf, List.foldl, BitVec.getLsbD_or, BitVec.getLsbD_shiftLeft, BitVec.getLsbD_setWidth,
    BitVec.getLsbD_append]
  have : i < 32 := by omega
  by_cases h1 : i < 8
  · simp [h1, hi, this]
  · have : i - 8 < 8 := by omega
    have b1 : b.getLsbD i = false := BitVec.getLsbD_of_ge b _ (by omega)
    have : i - 8 < 32 := by omega
    simp [*]

theorem wordOf_one (a : Byte) : (wordOf [a]).setWidth 8 = a := by simp [wordOf]

/-- What a byte reads as after one byte is written at each of several addresses. -/
theorem Memory.read_fill (as : List Nat) : ∀ (m : Memory) (b : Byte) (c : Nat),
    (m.fill as b).read c = if c ∈ as then b else m.read c := by
  induction as with
  | nil => intro m b c; simp [Memory.fill]
  | cons a as ih =>
    intro m b c
    rw [Memory.fill, ih, Memory.read_write]
    by_cases h1 : c ∈ as <;> by_cases h2 : c = a <;> simp [h1, h2]

theorem Memory.anySet_span_false {m : Memory} {a n : Nat} (h : ∀ k, k < n → m.read (a + k) = 0) :
    m.anySet (span a n) = false := by
  simp only [Memory.anySet, List.any_eq_false, mem_span]
  intro x ⟨h1, h2⟩
  have hx := h (x - a) (by omega)
  rw [show a + (x - a) = x by omega] at hx
  simp [hx]

/-- A filtered memory reads as before where the filter keeps the byte read, and 0 elsewhere. -/
theorem Memory.read_filter {m : Memory} (hw : m.wf) (p : Host.Cell → Bool) (a : Nat) :
    Memory.read (m.filter p) a = if p (a, m.read a) then m.read a else 0 := by
  induction m with
  | nil => exact (ite_self 0).symm
  | cons c m ih =>
    obtain ⟨k, v⟩ := c
    have hk : ∀ c ∈ m, k < c.1 := (List.pairwise_cons.mp hw.1).1
    have ih := ih ⟨(List.pairwise_cons.mp hw.1).2, fun c hc => hw.2 c (by simp [hc])⟩
    by_cases e : k = a
    · subst e
      have z : ∀ l : Memory, (∀ c ∈ l, k < c.1) → Memory.read l k = 0 := by
        intro l hl
        induction l with
        | nil => rfl
        | cons c l ih =>
          have := hl c (by simp)
          simp only [Memory.read, if_neg (Nat.ne_of_gt this)]
          exact ih (fun c hc => hl c (by simp [hc]))
      simp only [Memory.read, if_true]
      by_cases hp : p (k, v)
      · rw [List.filter_cons_of_pos hp]
        simp [Memory.read, hp]
      · rw [List.filter_cons_of_neg hp, if_neg hp]
        exact z _ (fun c hc => hk c (List.mem_filter.mp hc).1)
    · have : Memory.read ((k, v) :: m) a = Memory.read m a := by simp [Memory.read, e]
      rw [this]
      by_cases hp : p (k, v)
      · rw [List.filter_cons_of_pos hp]
        simp only [Memory.read, if_neg e]
        exact ih
      · rw [List.filter_cons_of_neg hp]
        exact ih

end Sys2Proof.Machine
end

