-- ==== Sys2Proof/Laws/State.lean ====
section
/-! SUPPORT. What each update of the state leaves alone: one lemma for each update and each field it does not write. -/
namespace Sys2Proof.Machine

/-! `State.setReg` writes only `regs`. -/

@[simp] theorem State.setReg_cfg (s : State) (r : GReg) (v : Word) : (s.setReg r v).cfg = s.cfg := by
  unfold State.setReg; split <;> rfl
@[simp] theorem State.setReg_preds (s : State) (r : GReg) (v : Word) : (s.setReg r v).preds = s.preds := by
  unfold State.setReg; split <;> rfl
@[simp] theorem State.setReg_sp (s : State) (r : GReg) (v : Word) : (s.setReg r v).sp = s.sp := by
  unfold State.setReg; split <;> rfl
@[simp] theorem State.setReg_pc (s : State) (r : GReg) (v : Word) : (s.setReg r v).pc = s.pc := by
  unfold State.setReg; split <;> rfl
@[simp] theorem State.setReg_base (s : State) (r : GReg) (v : Word) : (s.setReg r v).base = s.base := by
  unfold State.setReg; split <;> rfl
@[simp] theorem State.setReg_nextPc (s : State) (r : GReg) (v : Word) : (s.setReg r v).nextPc = s.nextPc := by
  unfold State.setReg; split <;> rfl
@[simp] theorem State.setReg_blockSize (s : State) (r : GReg) (v : Word) : (s.setReg r v).blockSize = s.blockSize := by
  unfold State.setReg; split <;> rfl
@[simp] theorem State.setReg_pending (s : State) (r : GReg) (v : Word) : (s.setReg r v).pending = s.pending := by
  unfold State.setReg; split <;> rfl
@[simp] theorem State.setReg_loadShadow (s : State) (r : GReg) (v : Word) : (s.setReg r v).loadShadow = s.loadShadow := by
  unfold State.setReg; split <;> rfl
@[simp] theorem State.setReg_mulShadow (s : State) (r : GReg) (v : Word) : (s.setReg r v).mulShadow = s.mulShadow := by
  unfold State.setReg; split <;> rfl
@[simp] theorem State.setReg_excEntered (s : State) (r : GReg) (v : Word) : (s.setReg r v).excEntered = s.excEntered := by
  unfold State.setReg; split <;> rfl
@[simp] theorem State.setReg_sleeping (s : State) (r : GReg) (v : Word) : (s.setReg r v).sleeping = s.sleeping := by
  unfold State.setReg; split <;> rfl
@[simp] theorem State.setReg_exc (s : State) (r : GReg) (v : Word) : (s.setReg r v).exc = s.exc := by
  unfold State.setReg; split <;> rfl
@[simp] theorem State.setReg_mmu (s : State) (r : GReg) (v : Word) : (s.setReg r v).mmu = s.mmu := by
  unfold State.setReg; split <;> rfl
@[simp] theorem State.setReg_sc (s : State) (r : GReg) (v : Word) : (s.setReg r v).sc = s.sc := by
  unfold State.setReg; split <;> rfl
@[simp] theorem State.setReg_mem (s : State) (r : GReg) (v : Word) : (s.setReg r v).mem = s.mem := by
  unfold State.setReg; split <;> rfl
@[simp] theorem State.setReg_marks (s : State) (r : GReg) (v : Word) : (s.setReg r v).marks = s.marks := by
  unfold State.setReg; split <;> rfl
@[simp] theorem State.setReg_io (s : State) (r : GReg) (v : Word) : (s.setReg r v).io = s.io := by
  unfold State.setReg; split <;> rfl
@[simp] theorem State.setReg_ticks (s : State) (r : GReg) (v : Word) : (s.setReg r v).ticks = s.ticks := by
  unfold State.setReg; split <;> rfl

/-! `State.setPred` writes only `preds`. -/

@[simp] theorem State.setPred_cfg (s : State) (p : PReg) (b : Bool) : (s.setPred p b).cfg = s.cfg := by
  unfold State.setPred; split <;> rfl
@[simp] theorem State.setPred_regs (s : State) (p : PReg) (b : Bool) : (s.setPred p b).regs = s.regs := by
  unfold State.setPred; split <;> rfl
@[simp] theorem State.setPred_sp (s : State) (p : PReg) (b : Bool) : (s.setPred p b).sp = s.sp := by
  unfold State.setPred; split <;> rfl
@[simp] theorem State.setPred_pc (s : State) (p : PReg) (b : Bool) : (s.setPred p b).pc = s.pc := by
  unfold State.setPred; split <;> rfl
@[simp] theorem State.setPred_base (s : State) (p : PReg) (b : Bool) : (s.setPred p b).base = s.base := by
  unfold State.setPred; split <;> rfl
@[simp] theorem State.setPred_nextPc (s : State) (p : PReg) (b : Bool) : (s.setPred p b).nextPc = s.nextPc := by
  unfold State.setPred; split <;> rfl
@[simp] theorem State.setPred_blockSize (s : State) (p : PReg) (b : Bool) : (s.setPred p b).blockSize = s.blockSize := by
  unfold State.setPred; split <;> rfl
@[simp] theorem State.setPred_pending (s : State) (p : PReg) (b : Bool) : (s.setPred p b).pending = s.pending := by
  unfold State.setPred; split <;> rfl
@[simp] theorem State.setPred_loadShadow (s : State) (p : PReg) (b : Bool) : (s.setPred p b).loadShadow = s.loadShadow := by
  unfold State.setPred; split <;> rfl
@[simp] theorem State.setPred_mulShadow (s : State) (p : PReg) (b : Bool) : (s.setPred p b).mulShadow = s.mulShadow := by
  unfold State.setPred; split <;> rfl
@[simp] theorem State.setPred_excEntered (s : State) (p : PReg) (b : Bool) : (s.setPred p b).excEntered = s.excEntered := by
  unfold State.setPred; split <;> rfl
@[simp] theorem State.setPred_sleeping (s : State) (p : PReg) (b : Bool) : (s.setPred p b).sleeping = s.sleeping := by
  unfold State.setPred; split <;> rfl
@[simp] theorem State.setPred_exc (s : State) (p : PReg) (b : Bool) : (s.setPred p b).exc = s.exc := by
  unfold State.setPred; split <;> rfl
@[simp] theorem State.setPred_mmu (s : State) (p : PReg) (b : Bool) : (s.setPred p b).mmu = s.mmu := by
  unfold State.setPred; split <;> rfl
@[simp] theorem State.setPred_sc (s : State) (p : PReg) (b : Bool) : (s.setPred p b).sc = s.sc := by
  unfold State.setPred; split <;> rfl
@[simp] theorem State.setPred_mem (s : State) (p : PReg) (b : Bool) : (s.setPred p b).mem = s.mem := by
  unfold State.setPred; split <;> rfl
@[simp] theorem State.setPred_marks (s : State) (p : PReg) (b : Bool) : (s.setPred p b).marks = s.marks := by
  unfold State.setPred; split <;> rfl
@[simp] theorem State.setPred_io (s : State) (p : PReg) (b : Bool) : (s.setPred p b).io = s.io := by
  unfold State.setPred; split <;> rfl
@[simp] theorem State.setPred_ticks (s : State) (p : PReg) (b : Bool) : (s.setPred p b).ticks = s.ticks := by
  unfold State.setPred; split <;> rfl

/-! `State.setPreds` writes only `preds`. -/

@[simp] theorem State.setPreds_cfg (s : State) (v : Word) : (s.setPreds v).cfg = s.cfg := rfl
@[simp] theorem State.setPreds_regs (s : State) (v : Word) : (s.setPreds v).regs = s.regs := rfl
@[simp] theorem State.setPreds_sp (s : State) (v : Word) : (s.setPreds v).sp = s.sp := rfl
@[simp] theorem State.setPreds_pc (s : State) (v : Word) : (s.setPreds v).pc = s.pc := rfl
@[simp] theorem State.setPreds_base (s : State) (v : Word) : (s.setPreds v).base = s.base := rfl
@[simp] theorem State.setPreds_nextPc (s : State) (v : Word) : (s.setPreds v).nextPc = s.nextPc := rfl
@[simp] theorem State.setPreds_blockSize (s : State) (v : Word) : (s.setPreds v).blockSize = s.blockSize := rfl
@[simp] theorem State.setPreds_pending (s : State) (v : Word) : (s.setPreds v).pending = s.pending := rfl
@[simp] theorem State.setPreds_loadShadow (s : State) (v : Word) : (s.setPreds v).loadShadow = s.loadShadow := rfl
@[simp] theorem State.setPreds_mulShadow (s : State) (v : Word) : (s.setPreds v).mulShadow = s.mulShadow := rfl
@[simp] theorem State.setPreds_excEntered (s : State) (v : Word) : (s.setPreds v).excEntered = s.excEntered := rfl
@[simp] theorem State.setPreds_sleeping (s : State) (v : Word) : (s.setPreds v).sleeping = s.sleeping := rfl
@[simp] theorem State.setPreds_exc (s : State) (v : Word) : (s.setPreds v).exc = s.exc := rfl
@[simp] theorem State.setPreds_mmu (s : State) (v : Word) : (s.setPreds v).mmu = s.mmu := rfl
@[simp] theorem State.setPreds_sc (s : State) (v : Word) : (s.setPreds v).sc = s.sc := rfl
@[simp] theorem State.setPreds_mem (s : State) (v : Word) : (s.setPreds v).mem = s.mem := rfl
@[simp] theorem State.setPreds_marks (s : State) (v : Word) : (s.setPreds v).marks = s.marks := rfl
@[simp] theorem State.setPreds_io (s : State) (v : Word) : (s.setPreds v).io = s.io := rfl
@[simp] theorem State.setPreds_ticks (s : State) (v : Word) : (s.setPreds v).ticks = s.ticks := rfl

/-! `State.putProduct` writes only `sp` and `mulShadow`. -/

@[simp] theorem State.putProduct_cfg (s : State) (p : BitVec 64) : (s.putProduct p).cfg = s.cfg := rfl
@[simp] theorem State.putProduct_regs (s : State) (p : BitVec 64) : (s.putProduct p).regs = s.regs := rfl
@[simp] theorem State.putProduct_preds (s : State) (p : BitVec 64) : (s.putProduct p).preds = s.preds := rfl
@[simp] theorem State.putProduct_pc (s : State) (p : BitVec 64) : (s.putProduct p).pc = s.pc := rfl
@[simp] theorem State.putProduct_base (s : State) (p : BitVec 64) : (s.putProduct p).base = s.base := rfl
@[simp] theorem State.putProduct_nextPc (s : State) (p : BitVec 64) : (s.putProduct p).nextPc = s.nextPc := rfl
@[simp] theorem State.putProduct_blockSize (s : State) (p : BitVec 64) : (s.putProduct p).blockSize = s.blockSize := rfl
@[simp] theorem State.putProduct_pending (s : State) (p : BitVec 64) : (s.putProduct p).pending = s.pending := rfl
@[simp] theorem State.putProduct_loadShadow (s : State) (p : BitVec 64) : (s.putProduct p).loadShadow = s.loadShadow := rfl
@[simp] theorem State.putProduct_excEntered (s : State) (p : BitVec 64) : (s.putProduct p).excEntered = s.excEntered := rfl
@[simp] theorem State.putProduct_sleeping (s : State) (p : BitVec 64) : (s.putProduct p).sleeping = s.sleeping := rfl
@[simp] theorem State.putProduct_exc (s : State) (p : BitVec 64) : (s.putProduct p).exc = s.exc := rfl
@[simp] theorem State.putProduct_mmu (s : State) (p : BitVec 64) : (s.putProduct p).mmu = s.mmu := rfl
@[simp] theorem State.putProduct_sc (s : State) (p : BitVec 64) : (s.putProduct p).sc = s.sc := rfl
@[simp] theorem State.putProduct_mem (s : State) (p : BitVec 64) : (s.putProduct p).mem = s.mem := rfl
@[simp] theorem State.putProduct_marks (s : State) (p : BitVec 64) : (s.putProduct p).marks = s.marks := rfl
@[simp] theorem State.putProduct_io (s : State) (p : BitVec 64) : (s.putProduct p).io = s.io := rfl
@[simp] theorem State.putProduct_ticks (s : State) (p : BitVec 64) : (s.putProduct p).ticks = s.ticks := rfl

/-! `State.putLoaded` writes only `regs` and `loadShadow`. -/

@[simp] theorem State.putLoaded_cfg (s : State) (rd : GReg) (v : Word) : (s.putLoaded rd v).cfg = s.cfg := by simp [State.putLoaded]
@[simp] theorem State.putLoaded_preds (s : State) (rd : GReg) (v : Word) : (s.putLoaded rd v).preds = s.preds := by simp [State.putLoaded]
@[simp] theorem State.putLoaded_sp (s : State) (rd : GReg) (v : Word) : (s.putLoaded rd v).sp = s.sp := by simp [State.putLoaded]
@[simp] theorem State.putLoaded_pc (s : State) (rd : GReg) (v : Word) : (s.putLoaded rd v).pc = s.pc := by simp [State.putLoaded]
@[simp] theorem State.putLoaded_base (s : State) (rd : GReg) (v : Word) : (s.putLoaded rd v).base = s.base := by simp [State.putLoaded]
@[simp] theorem State.putLoaded_nextPc (s : State) (rd : GReg) (v : Word) : (s.putLoaded rd v).nextPc = s.nextPc := by simp [State.putLoaded]
@[simp] theorem State.putLoaded_blockSize (s : State) (rd : GReg) (v : Word) : (s.putLoaded rd v).blockSize = s.blockSize := by simp [State.putLoaded]
@[simp] theorem State.putLoaded_pending (s : State) (rd : GReg) (v : Word) : (s.putLoaded rd v).pending = s.pending := by simp [State.putLoaded]
@[simp] theorem State.putLoaded_mulShadow (s : State) (rd : GReg) (v : Word) : (s.putLoaded rd v).mulShadow = s.mulShadow := by simp [State.putLoaded]
@[simp] theorem State.putLoaded_excEntered (s : State) (rd : GReg) (v : Word) : (s.putLoaded rd v).excEntered = s.excEntered := by simp [State.putLoaded]
@[simp] theorem State.putLoaded_sleeping (s : State) (rd : GReg) (v : Word) : (s.putLoaded rd v).sleeping = s.sleeping := by simp [State.putLoaded]
@[simp] theorem State.putLoaded_exc (s : State) (rd : GReg) (v : Word) : (s.putLoaded rd v).exc = s.exc := by simp [State.putLoaded]
@[simp] theorem State.putLoaded_mmu (s : State) (rd : GReg) (v : Word) : (s.putLoaded rd v).mmu = s.mmu := by simp [State.putLoaded]
@[simp] theorem State.putLoaded_sc (s : State) (rd : GReg) (v : Word) : (s.putLoaded rd v).sc = s.sc := by simp [State.putLoaded]
@[simp] theorem State.putLoaded_mem (s : State) (rd : GReg) (v : Word) : (s.putLoaded rd v).mem = s.mem := by simp [State.putLoaded]
@[simp] theorem State.putLoaded_marks (s : State) (rd : GReg) (v : Word) : (s.putLoaded rd v).marks = s.marks := by simp [State.putLoaded]
@[simp] theorem State.putLoaded_io (s : State) (rd : GReg) (v : Word) : (s.putLoaded rd v).io = s.io := by simp [State.putLoaded]
@[simp] theorem State.putLoaded_ticks (s : State) (rd : GReg) (v : Word) : (s.putLoaded rd v).ticks = s.ticks := by simp [State.putLoaded]

/-! `State.link` writes only `sp`. -/

@[simp] theorem State.link_cfg (s : State) (ret : Word) : (s.link ret).cfg = s.cfg := rfl
@[simp] theorem State.link_regs (s : State) (ret : Word) : (s.link ret).regs = s.regs := rfl
@[simp] theorem State.link_preds (s : State) (ret : Word) : (s.link ret).preds = s.preds := rfl
@[simp] theorem State.link_pc (s : State) (ret : Word) : (s.link ret).pc = s.pc := rfl
@[simp] theorem State.link_base (s : State) (ret : Word) : (s.link ret).base = s.base := rfl
@[simp] theorem State.link_nextPc (s : State) (ret : Word) : (s.link ret).nextPc = s.nextPc := rfl
@[simp] theorem State.link_blockSize (s : State) (ret : Word) : (s.link ret).blockSize = s.blockSize := rfl
@[simp] theorem State.link_pending (s : State) (ret : Word) : (s.link ret).pending = s.pending := rfl
@[simp] theorem State.link_loadShadow (s : State) (ret : Word) : (s.link ret).loadShadow = s.loadShadow := rfl
@[simp] theorem State.link_mulShadow (s : State) (ret : Word) : (s.link ret).mulShadow = s.mulShadow := rfl
@[simp] theorem State.link_excEntered (s : State) (ret : Word) : (s.link ret).excEntered = s.excEntered := rfl
@[simp] theorem State.link_sleeping (s : State) (ret : Word) : (s.link ret).sleeping = s.sleeping := rfl
@[simp] theorem State.link_exc (s : State) (ret : Word) : (s.link ret).exc = s.exc := rfl
@[simp] theorem State.link_mmu (s : State) (ret : Word) : (s.link ret).mmu = s.mmu := rfl
@[simp] theorem State.link_sc (s : State) (ret : Word) : (s.link ret).sc = s.sc := rfl
@[simp] theorem State.link_mem (s : State) (ret : Word) : (s.link ret).mem = s.mem := rfl
@[simp] theorem State.link_marks (s : State) (ret : Word) : (s.link ret).marks = s.marks := rfl
@[simp] theorem State.link_io (s : State) (ret : Word) : (s.link ret).io = s.io := rfl
@[simp] theorem State.link_ticks (s : State) (ret : Word) : (s.link ret).ticks = s.ticks := rfl

/-! `State.restoreStatus` writes only `exc`. -/

@[simp] theorem State.restoreStatus_cfg (s : State) : s.restoreStatus.cfg = s.cfg := rfl
@[simp] theorem State.restoreStatus_regs (s : State) : s.restoreStatus.regs = s.regs := rfl
@[simp] theorem State.restoreStatus_preds (s : State) : s.restoreStatus.preds = s.preds := rfl
@[simp] theorem State.restoreStatus_sp (s : State) : s.restoreStatus.sp = s.sp := rfl
@[simp] theorem State.restoreStatus_pc (s : State) : s.restoreStatus.pc = s.pc := rfl
@[simp] theorem State.restoreStatus_base (s : State) : s.restoreStatus.base = s.base := rfl
@[simp] theorem State.restoreStatus_nextPc (s : State) : s.restoreStatus.nextPc = s.nextPc := rfl
@[simp] theorem State.restoreStatus_blockSize (s : State) : s.restoreStatus.blockSize = s.blockSize := rfl
@[simp] theorem State.restoreStatus_pending (s : State) : s.restoreStatus.pending = s.pending := rfl
@[simp] theorem State.restoreStatus_loadShadow (s : State) : s.restoreStatus.loadShadow = s.loadShadow := rfl
@[simp] theorem State.restoreStatus_mulShadow (s : State) : s.restoreStatus.mulShadow = s.mulShadow := rfl
@[simp] theorem State.restoreStatus_excEntered (s : State) : s.restoreStatus.excEntered = s.excEntered := rfl
@[simp] theorem State.restoreStatus_sleeping (s : State) : s.restoreStatus.sleeping = s.sleeping := rfl
@[simp] theorem State.restoreStatus_mmu (s : State) : s.restoreStatus.mmu = s.mmu := rfl
@[simp] theorem State.restoreStatus_sc (s : State) : s.restoreStatus.sc = s.sc := rfl
@[simp] theorem State.restoreStatus_mem (s : State) : s.restoreStatus.mem = s.mem := rfl
@[simp] theorem State.restoreStatus_marks (s : State) : s.restoreStatus.marks = s.marks := rfl
@[simp] theorem State.restoreStatus_io (s : State) : s.restoreStatus.io = s.io := rfl
@[simp] theorem State.restoreStatus_ticks (s : State) : s.restoreStatus.ticks = s.ticks := rfl

/-! `State.request` writes only `exc`. -/

@[simp] theorem State.request_cfg (s : State) (i : Nat) (made : Bool) : (s.request i made).cfg = s.cfg := by
  unfold State.request; split <;> rfl
@[simp] theorem State.request_regs (s : State) (i : Nat) (made : Bool) : (s.request i made).regs = s.regs := by
  unfold State.request; split <;> rfl
@[simp] theorem State.request_preds (s : State) (i : Nat) (made : Bool) : (s.request i made).preds = s.preds := by
  unfold State.request; split <;> rfl
@[simp] theorem State.request_sp (s : State) (i : Nat) (made : Bool) : (s.request i made).sp = s.sp := by
  unfold State.request; split <;> rfl
@[simp] theorem State.request_pc (s : State) (i : Nat) (made : Bool) : (s.request i made).pc = s.pc := by
  unfold State.request; split <;> rfl
@[simp] theorem State.request_base (s : State) (i : Nat) (made : Bool) : (s.request i made).base = s.base := by
  unfold State.request; split <;> rfl
@[simp] theorem State.request_nextPc (s : State) (i : Nat) (made : Bool) : (s.request i made).nextPc = s.nextPc := by
  unfold State.request; split <;> rfl
@[simp] theorem State.request_blockSize (s : State) (i : Nat) (made : Bool) : (s.request i made).blockSize = s.blockSize := by
  unfold State.request; split <;> rfl
@[simp] theorem State.request_pending (s : State) (i : Nat) (made : Bool) : (s.request i made).pending = s.pending := by
  unfold State.request; split <;> rfl
@[simp] theorem State.request_loadShadow (s : State) (i : Nat) (made : Bool) : (s.request i made).loadShadow = s.loadShadow := by
  unfold State.request; split <;> rfl
@[simp] theorem State.request_mulShadow (s : State) (i : Nat) (made : Bool) : (s.request i made).mulShadow = s.mulShadow := by
  unfold State.request; split <;> rfl
@[simp] theorem State.request_excEntered (s : State) (i : Nat) (made : Bool) : (s.request i made).excEntered = s.excEntered := by
  unfold State.request; split <;> rfl
@[simp] theorem State.request_sleeping (s : State) (i : Nat) (made : Bool) : (s.request i made).sleeping = s.sleeping := by
  unfold State.request; split <;> rfl
@[simp] theorem State.request_mmu (s : State) (i : Nat) (made : Bool) : (s.request i made).mmu = s.mmu := by
  unfold State.request; split <;> rfl
@[simp] theorem State.request_sc (s : State) (i : Nat) (made : Bool) : (s.request i made).sc = s.sc := by
  unfold State.request; split <;> rfl
@[simp] theorem State.request_mem (s : State) (i : Nat) (made : Bool) : (s.request i made).mem = s.mem := by
  unfold State.request; split <;> rfl
@[simp] theorem State.request_marks (s : State) (i : Nat) (made : Bool) : (s.request i made).marks = s.marks := by
  unfold State.request; split <;> rfl
@[simp] theorem State.request_io (s : State) (i : Nat) (made : Bool) : (s.request i made).io = s.io := by
  unfold State.request; split <;> rfl
@[simp] theorem State.request_ticks (s : State) (i : Nat) (made : Bool) : (s.request i made).ticks = s.ticks := by
  unfold State.request; split <;> rfl

/-! `State.passTime` writes only `io` and `exc`. -/

@[simp] theorem State.passTime_cfg (s : State) (c : Nat) : (s.passTime c).cfg = s.cfg := by simp [State.passTime]
@[simp] theorem State.passTime_regs (s : State) (c : Nat) : (s.passTime c).regs = s.regs := by simp [State.passTime]
@[simp] theorem State.passTime_preds (s : State) (c : Nat) : (s.passTime c).preds = s.preds := by simp [State.passTime]
@[simp] theorem State.passTime_sp (s : State) (c : Nat) : (s.passTime c).sp = s.sp := by simp [State.passTime]
@[simp] theorem State.passTime_pc (s : State) (c : Nat) : (s.passTime c).pc = s.pc := by simp [State.passTime]
@[simp] theorem State.passTime_base (s : State) (c : Nat) : (s.passTime c).base = s.base := by simp [State.passTime]
@[simp] theorem State.passTime_nextPc (s : State) (c : Nat) : (s.passTime c).nextPc = s.nextPc := by simp [State.passTime]
@[simp] theorem State.passTime_blockSize (s : State) (c : Nat) : (s.passTime c).blockSize = s.blockSize := by simp [State.passTime]
@[simp] theorem State.passTime_pending (s : State) (c : Nat) : (s.passTime c).pending = s.pending := by simp [State.passTime]
@[simp] theorem State.passTime_loadShadow (s : State) (c : Nat) : (s.passTime c).loadShadow = s.loadShadow := by simp [State.passTime]
@[simp] theorem State.passTime_mulShadow (s : State) (c : Nat) : (s.passTime c).mulShadow = s.mulShadow := by simp [State.passTime]
@[simp] theorem State.passTime_excEntered (s : State) (c : Nat) : (s.passTime c).excEntered = s.excEntered := by simp [State.passTime]
@[simp] theorem State.passTime_sleeping (s : State) (c : Nat) : (s.passTime c).sleeping = s.sleeping := by simp [State.passTime]
@[simp] theorem State.passTime_mmu (s : State) (c : Nat) : (s.passTime c).mmu = s.mmu := by simp [State.passTime]
@[simp] theorem State.passTime_sc (s : State) (c : Nat) : (s.passTime c).sc = s.sc := by simp [State.passTime]
@[simp] theorem State.passTime_mem (s : State) (c : Nat) : (s.passTime c).mem = s.mem := by simp [State.passTime]
@[simp] theorem State.passTime_marks (s : State) (c : Nat) : (s.passTime c).marks = s.marks := by simp [State.passTime]
@[simp] theorem State.passTime_ticks (s : State) (c : Nat) : (s.passTime c).ticks = s.ticks := by simp [State.passTime]

/-! `State.outsideRequests` writes only `exc`. -/

@[simp] theorem State.outsideRequests_cfg (s : State) : s.outsideRequests.cfg = s.cfg := by
  unfold State.outsideRequests; split <;> rfl
@[simp] theorem State.outsideRequests_regs (s : State) : s.outsideRequests.regs = s.regs := by
  unfold State.outsideRequests; split <;> rfl
@[simp] theorem State.outsideRequests_preds (s : State) : s.outsideRequests.preds = s.preds := by
  unfold State.outsideRequests; split <;> rfl
@[simp] theorem State.outsideRequests_sp (s : State) : s.outsideRequests.sp = s.sp := by
  unfold State.outsideRequests; split <;> rfl
@[simp] theorem State.outsideRequests_pc (s : State) : s.outsideRequests.pc = s.pc := by
  unfold State.outsideRequests; split <;> rfl
@[simp] theorem State.outsideRequests_base (s : State) : s.outsideRequests.base = s.base := by
  unfold State.outsideRequests; split <;> rfl
@[simp] theorem State.outsideRequests_nextPc (s : State) : s.outsideRequests.nextPc = s.nextPc := by
  unfold State.outsideRequests; split <;> rfl
@[simp] theorem State.outsideRequests_blockSize (s : State) : s.outsideRequests.blockSize = s.blockSize := by
  unfold State.outsideRequests; split <;> rfl
@[simp] theorem State.outsideRequests_pending (s : State) : s.outsideRequests.pending = s.pending := by
  unfold State.outsideRequests; split <;> rfl
@[simp] theorem State.outsideRequests_loadShadow (s : State) : s.outsideRequests.loadShadow = s.loadShadow := by
  unfold State.outsideRequests; split <;> rfl
@[simp] theorem State.outsideRequests_mulShadow (s : State) : s.outsideRequests.mulShadow = s.mulShadow := by
  unfold State.outsideRequests; split <;> rfl
@[simp] theorem State.outsideRequests_excEntered (s : State) : s.outsideRequests.excEntered = s.excEntered := by
  unfold State.outsideRequests; split <;> rfl
@[simp] theorem State.outsideRequests_sleeping (s : State) : s.outsideRequests.sleeping = s.sleeping := by
  unfold State.outsideRequests; split <;> rfl
@[simp] theorem State.outsideRequests_mmu (s : State) : s.outsideRequests.mmu = s.mmu := by
  unfold State.outsideRequests; split <;> rfl
@[simp] theorem State.outsideRequests_sc (s : State) : s.outsideRequests.sc = s.sc := by
  unfold State.outsideRequests; split <;> rfl
@[simp] theorem State.outsideRequests_mem (s : State) : s.outsideRequests.mem = s.mem := by
  unfold State.outsideRequests; split <;> rfl
@[simp] theorem State.outsideRequests_marks (s : State) : s.outsideRequests.marks = s.marks := by
  unfold State.outsideRequests; split <;> rfl
@[simp] theorem State.outsideRequests_io (s : State) : s.outsideRequests.io = s.io := by
  unfold State.outsideRequests; split <;> rfl
@[simp] theorem State.outsideRequests_ticks (s : State) : s.outsideRequests.ticks = s.ticks := by
  unfold State.outsideRequests; split <;> rfl

/-! `State.uartArrivals` writes only `io`. -/

@[simp] theorem State.uartArrivals_cfg (s : State) : s.uartArrivals.cfg = s.cfg := rfl
@[simp] theorem State.uartArrivals_regs (s : State) : s.uartArrivals.regs = s.regs := rfl
@[simp] theorem State.uartArrivals_preds (s : State) : s.uartArrivals.preds = s.preds := rfl
@[simp] theorem State.uartArrivals_sp (s : State) : s.uartArrivals.sp = s.sp := rfl
@[simp] theorem State.uartArrivals_pc (s : State) : s.uartArrivals.pc = s.pc := rfl
@[simp] theorem State.uartArrivals_base (s : State) : s.uartArrivals.base = s.base := rfl
@[simp] theorem State.uartArrivals_nextPc (s : State) : s.uartArrivals.nextPc = s.nextPc := rfl
@[simp] theorem State.uartArrivals_blockSize (s : State) : s.uartArrivals.blockSize = s.blockSize := rfl
@[simp] theorem State.uartArrivals_pending (s : State) : s.uartArrivals.pending = s.pending := rfl
@[simp] theorem State.uartArrivals_loadShadow (s : State) : s.uartArrivals.loadShadow = s.loadShadow := rfl
@[simp] theorem State.uartArrivals_mulShadow (s : State) : s.uartArrivals.mulShadow = s.mulShadow := rfl
@[simp] theorem State.uartArrivals_excEntered (s : State) : s.uartArrivals.excEntered = s.excEntered := rfl
@[simp] theorem State.uartArrivals_sleeping (s : State) : s.uartArrivals.sleeping = s.sleeping := rfl
@[simp] theorem State.uartArrivals_exc (s : State) : s.uartArrivals.exc = s.exc := rfl
@[simp] theorem State.uartArrivals_mmu (s : State) : s.uartArrivals.mmu = s.mmu := rfl
@[simp] theorem State.uartArrivals_sc (s : State) : s.uartArrivals.sc = s.sc := rfl
@[simp] theorem State.uartArrivals_mem (s : State) : s.uartArrivals.mem = s.mem := rfl
@[simp] theorem State.uartArrivals_marks (s : State) : s.uartArrivals.marks = s.marks := rfl
@[simp] theorem State.uartArrivals_ticks (s : State) : s.uartArrivals.ticks = s.ticks := rfl

/-! `State.tick` writes only `io` and `exc` and `ticks`. -/

@[simp] theorem State.tick_cfg (s : State) : s.tick.cfg = s.cfg := by simp [State.tick]
@[simp] theorem State.tick_regs (s : State) : s.tick.regs = s.regs := by simp [State.tick]
@[simp] theorem State.tick_preds (s : State) : s.tick.preds = s.preds := by simp [State.tick]
@[simp] theorem State.tick_sp (s : State) : s.tick.sp = s.sp := by simp [State.tick]
@[simp] theorem State.tick_pc (s : State) : s.tick.pc = s.pc := by simp [State.tick]
@[simp] theorem State.tick_base (s : State) : s.tick.base = s.base := by simp [State.tick]
@[simp] theorem State.tick_nextPc (s : State) : s.tick.nextPc = s.nextPc := by simp [State.tick]
@[simp] theorem State.tick_blockSize (s : State) : s.tick.blockSize = s.blockSize := by simp [State.tick]
@[simp] theorem State.tick_pending (s : State) : s.tick.pending = s.pending := by simp [State.tick]
@[simp] theorem State.tick_loadShadow (s : State) : s.tick.loadShadow = s.loadShadow := by simp [State.tick]
@[simp] theorem State.tick_mulShadow (s : State) : s.tick.mulShadow = s.mulShadow := by simp [State.tick]
@[simp] theorem State.tick_excEntered (s : State) : s.tick.excEntered = s.excEntered := by simp [State.tick]
@[simp] theorem State.tick_sleeping (s : State) : s.tick.sleeping = s.sleeping := by simp [State.tick]
@[simp] theorem State.tick_mmu (s : State) : s.tick.mmu = s.mmu := by simp [State.tick]
@[simp] theorem State.tick_sc (s : State) : s.tick.sc = s.sc := by simp [State.tick]
@[simp] theorem State.tick_mem (s : State) : s.tick.mem = s.mem := by simp [State.tick]
@[simp] theorem State.tick_marks (s : State) : s.tick.marks = s.marks := by simp [State.tick]

/-! `State.withTimer` writes only `io`. -/

@[simp] theorem State.withTimer_cfg (s : State) (t : Timer) : (s.withTimer t).cfg = s.cfg := rfl
@[simp] theorem State.withTimer_regs (s : State) (t : Timer) : (s.withTimer t).regs = s.regs := rfl
@[simp] theorem State.withTimer_preds (s : State) (t : Timer) : (s.withTimer t).preds = s.preds := rfl
@[simp] theorem State.withTimer_sp (s : State) (t : Timer) : (s.withTimer t).sp = s.sp := rfl
@[simp] theorem State.withTimer_pc (s : State) (t : Timer) : (s.withTimer t).pc = s.pc := rfl
@[simp] theorem State.withTimer_base (s : State) (t : Timer) : (s.withTimer t).base = s.base := rfl
@[simp] theorem State.withTimer_nextPc (s : State) (t : Timer) : (s.withTimer t).nextPc = s.nextPc := rfl
@[simp] theorem State.withTimer_blockSize (s : State) (t : Timer) : (s.withTimer t).blockSize = s.blockSize := rfl
@[simp] theorem State.withTimer_pending (s : State) (t : Timer) : (s.withTimer t).pending = s.pending := rfl
@[simp] theorem State.withTimer_loadShadow (s : State) (t : Timer) : (s.withTimer t).loadShadow = s.loadShadow := rfl
@[simp] theorem State.withTimer_mulShadow (s : State) (t : Timer) : (s.withTimer t).mulShadow = s.mulShadow := rfl
@[simp] theorem State.withTimer_excEntered (s : State) (t : Timer) : (s.withTimer t).excEntered = s.excEntered := rfl
@[simp] theorem State.withTimer_sleeping (s : State) (t : Timer) : (s.withTimer t).sleeping = s.sleeping := rfl
@[simp] theorem State.withTimer_exc (s : State) (t : Timer) : (s.withTimer t).exc = s.exc := rfl
@[simp] theorem State.withTimer_mmu (s : State) (t : Timer) : (s.withTimer t).mmu = s.mmu := rfl
@[simp] theorem State.withTimer_sc (s : State) (t : Timer) : (s.withTimer t).sc = s.sc := rfl
@[simp] theorem State.withTimer_mem (s : State) (t : Timer) : (s.withTimer t).mem = s.mem := rfl
@[simp] theorem State.withTimer_marks (s : State) (t : Timer) : (s.withTimer t).marks = s.marks := rfl
@[simp] theorem State.withTimer_ticks (s : State) (t : Timer) : (s.withTimer t).ticks = s.ticks := rfl

/-! `State.withUart` writes only `io`. -/

@[simp] theorem State.withUart_cfg (s : State) (port : Bool) (u : Uart) : (s.withUart port u).cfg = s.cfg := by
  unfold State.withUart; split <;> rfl
@[simp] theorem State.withUart_regs (s : State) (port : Bool) (u : Uart) : (s.withUart port u).regs = s.regs := by
  unfold State.withUart; split <;> rfl
@[simp] theorem State.withUart_preds (s : State) (port : Bool) (u : Uart) : (s.withUart port u).preds = s.preds := by
  unfold State.withUart; split <;> rfl
@[simp] theorem State.withUart_sp (s : State) (port : Bool) (u : Uart) : (s.withUart port u).sp = s.sp := by
  unfold State.withUart; split <;> rfl
@[simp] theorem State.withUart_pc (s : State) (port : Bool) (u : Uart) : (s.withUart port u).pc = s.pc := by
  unfold State.withUart; split <;> rfl
@[simp] theorem State.withUart_base (s : State) (port : Bool) (u : Uart) : (s.withUart port u).base = s.base := by
  unfold State.withUart; split <;> rfl
@[simp] theorem State.withUart_nextPc (s : State) (port : Bool) (u : Uart) : (s.withUart port u).nextPc = s.nextPc := by
  unfold State.withUart; split <;> rfl
@[simp] theorem State.withUart_blockSize (s : State) (port : Bool) (u : Uart) : (s.withUart port u).blockSize = s.blockSize := by
  unfold State.withUart; split <;> rfl
@[simp] theorem State.withUart_pending (s : State) (port : Bool) (u : Uart) : (s.withUart port u).pending = s.pending := by
  unfold State.withUart; split <;> rfl
@[simp] theorem State.withUart_loadShadow (s : State) (port : Bool) (u : Uart) : (s.withUart port u).loadShadow = s.loadShadow := by
  unfold State.withUart; split <;> rfl
@[simp] theorem State.withUart_mulShadow (s : State) (port : Bool) (u : Uart) : (s.withUart port u).mulShadow = s.mulShadow := by
  unfold State.withUart; split <;> rfl
@[simp] theorem State.withUart_excEntered (s : State) (port : Bool) (u : Uart) : (s.withUart port u).excEntered = s.excEntered := by
  unfold State.withUart; split <;> rfl
@[simp] theorem State.withUart_sleeping (s : State) (port : Bool) (u : Uart) : (s.withUart port u).sleeping = s.sleeping := by
  unfold State.withUart; split <;> rfl
@[simp] theorem State.withUart_exc (s : State) (port : Bool) (u : Uart) : (s.withUart port u).exc = s.exc := by
  unfold State.withUart; split <;> rfl
@[simp] theorem State.withUart_mmu (s : State) (port : Bool) (u : Uart) : (s.withUart port u).mmu = s.mmu := by
  unfold State.withUart; split <;> rfl
@[simp] theorem State.withUart_sc (s : State) (port : Bool) (u : Uart) : (s.withUart port u).sc = s.sc := by
  unfold State.withUart; split <;> rfl
@[simp] theorem State.withUart_mem (s : State) (port : Bool) (u : Uart) : (s.withUart port u).mem = s.mem := by
  unfold State.withUart; split <;> rfl
@[simp] theorem State.withUart_marks (s : State) (port : Bool) (u : Uart) : (s.withUart port u).marks = s.marks := by
  unfold State.withUart; split <;> rfl
@[simp] theorem State.withUart_ticks (s : State) (port : Bool) (u : Uart) : (s.withUart port u).ticks = s.ticks := by
  unfold State.withUart; split <;> rfl

/-! `State.writeGlobal` writes only `mem` and `marks`. -/

@[simp] theorem State.writeGlobal_cfg (s : State) (cached : Bool) (pa n : Nat) (v : Word) : (s.writeGlobal cached pa n v).cfg = s.cfg := rfl
@[simp] theorem State.writeGlobal_regs (s : State) (cached : Bool) (pa n : Nat) (v : Word) : (s.writeGlobal cached pa n v).regs = s.regs := rfl
@[simp] theorem State.writeGlobal_preds (s : State) (cached : Bool) (pa n : Nat) (v : Word) : (s.writeGlobal cached pa n v).preds = s.preds := rfl
@[simp] theorem State.writeGlobal_sp (s : State) (cached : Bool) (pa n : Nat) (v : Word) : (s.writeGlobal cached pa n v).sp = s.sp := rfl
@[simp] theorem State.writeGlobal_pc (s : State) (cached : Bool) (pa n : Nat) (v : Word) : (s.writeGlobal cached pa n v).pc = s.pc := rfl
@[simp] theorem State.writeGlobal_base (s : State) (cached : Bool) (pa n : Nat) (v : Word) : (s.writeGlobal cached pa n v).base = s.base := rfl
@[simp] theorem State.writeGlobal_nextPc (s : State) (cached : Bool) (pa n : Nat) (v : Word) : (s.writeGlobal cached pa n v).nextPc = s.nextPc := rfl
@[simp] theorem State.writeGlobal_blockSize (s : State) (cached : Bool) (pa n : Nat) (v : Word) : (s.writeGlobal cached pa n v).blockSize = s.blockSize := rfl
@[simp] theorem State.writeGlobal_pending (s : State) (cached : Bool) (pa n : Nat) (v : Word) : (s.writeGlobal cached pa n v).pending = s.pending := rfl
@[simp] theorem State.writeGlobal_loadShadow (s : State) (cached : Bool) (pa n : Nat) (v : Word) : (s.writeGlobal cached pa n v).loadShadow = s.loadShadow := rfl
@[simp] theorem State.writeGlobal_mulShadow (s : State) (cached : Bool) (pa n : Nat) (v : Word) : (s.writeGlobal cached pa n v).mulShadow = s.mulShadow := rfl
@[simp] theorem State.writeGlobal_excEntered (s : State) (cached : Bool) (pa n : Nat) (v : Word) : (s.writeGlobal cached pa n v).excEntered = s.excEntered := rfl
@[simp] theorem State.writeGlobal_sleeping (s : State) (cached : Bool) (pa n : Nat) (v : Word) : (s.writeGlobal cached pa n v).sleeping = s.sleeping := rfl
@[simp] theorem State.writeGlobal_exc (s : State) (cached : Bool) (pa n : Nat) (v : Word) : (s.writeGlobal cached pa n v).exc = s.exc := rfl
@[simp] theorem State.writeGlobal_mmu (s : State) (cached : Bool) (pa n : Nat) (v : Word) : (s.writeGlobal cached pa n v).mmu = s.mmu := rfl
@[simp] theorem State.writeGlobal_sc (s : State) (cached : Bool) (pa n : Nat) (v : Word) : (s.writeGlobal cached pa n v).sc = s.sc := rfl
@[simp] theorem State.writeGlobal_io (s : State) (cached : Bool) (pa n : Nat) (v : Word) : (s.writeGlobal cached pa n v).io = s.io := rfl
@[simp] theorem State.writeGlobal_ticks (s : State) (cached : Bool) (pa n : Nat) (v : Word) : (s.writeGlobal cached pa n v).ticks = s.ticks := rfl

/-! `State.cacheControl` writes only `marks` and `exc`. -/

@[simp] theorem State.cacheControl_cfg (s : State) (v : Word) : (s.cacheControl v).cfg = s.cfg := rfl
@[simp] theorem State.cacheControl_regs (s : State) (v : Word) : (s.cacheControl v).regs = s.regs := rfl
@[simp] theorem State.cacheControl_preds (s : State) (v : Word) : (s.cacheControl v).preds = s.preds := rfl
@[simp] theorem State.cacheControl_sp (s : State) (v : Word) : (s.cacheControl v).sp = s.sp := rfl
@[simp] theorem State.cacheControl_pc (s : State) (v : Word) : (s.cacheControl v).pc = s.pc := rfl
@[simp] theorem State.cacheControl_base (s : State) (v : Word) : (s.cacheControl v).base = s.base := rfl
@[simp] theorem State.cacheControl_nextPc (s : State) (v : Word) : (s.cacheControl v).nextPc = s.nextPc := rfl
@[simp] theorem State.cacheControl_blockSize (s : State) (v : Word) : (s.cacheControl v).blockSize = s.blockSize := rfl
@[simp] theorem State.cacheControl_pending (s : State) (v : Word) : (s.cacheControl v).pending = s.pending := rfl
@[simp] theorem State.cacheControl_loadShadow (s : State) (v : Word) : (s.cacheControl v).loadShadow = s.loadShadow := rfl
@[simp] theorem State.cacheControl_mulShadow (s : State) (v : Word) : (s.cacheControl v).mulShadow = s.mulShadow := rfl
@[simp] theorem State.cacheControl_excEntered (s : State) (v : Word) : (s.cacheControl v).excEntered = s.excEntered := rfl
@[simp] theorem State.cacheControl_sleeping (s : State) (v : Word) : (s.cacheControl v).sleeping = s.sleeping := rfl
@[simp] theorem State.cacheControl_mmu (s : State) (v : Word) : (s.cacheControl v).mmu = s.mmu := rfl
@[simp] theorem State.cacheControl_sc (s : State) (v : Word) : (s.cacheControl v).sc = s.sc := rfl
@[simp] theorem State.cacheControl_mem (s : State) (v : Word) : (s.cacheControl v).mem = s.mem := rfl
@[simp] theorem State.cacheControl_io (s : State) (v : Word) : (s.cacheControl v).io = s.io := rfl
@[simp] theorem State.cacheControl_ticks (s : State) (v : Word) : (s.cacheControl v).ticks = s.ticks := rfl

/-! `State.begin` writes only `nextPc` and `excEntered`. -/

@[simp] theorem State.begin_cfg (s : State) (len : Word) : (s.begin len).cfg = s.cfg := rfl
@[simp] theorem State.begin_regs (s : State) (len : Word) : (s.begin len).regs = s.regs := rfl
@[simp] theorem State.begin_preds (s : State) (len : Word) : (s.begin len).preds = s.preds := rfl
@[simp] theorem State.begin_sp (s : State) (len : Word) : (s.begin len).sp = s.sp := rfl
@[simp] theorem State.begin_pc (s : State) (len : Word) : (s.begin len).pc = s.pc := rfl
@[simp] theorem State.begin_base (s : State) (len : Word) : (s.begin len).base = s.base := rfl
@[simp] theorem State.begin_blockSize (s : State) (len : Word) : (s.begin len).blockSize = s.blockSize := rfl
@[simp] theorem State.begin_pending (s : State) (len : Word) : (s.begin len).pending = s.pending := rfl
@[simp] theorem State.begin_loadShadow (s : State) (len : Word) : (s.begin len).loadShadow = s.loadShadow := rfl
@[simp] theorem State.begin_mulShadow (s : State) (len : Word) : (s.begin len).mulShadow = s.mulShadow := rfl
@[simp] theorem State.begin_sleeping (s : State) (len : Word) : (s.begin len).sleeping = s.sleeping := rfl
@[simp] theorem State.begin_exc (s : State) (len : Word) : (s.begin len).exc = s.exc := rfl
@[simp] theorem State.begin_mmu (s : State) (len : Word) : (s.begin len).mmu = s.mmu := rfl
@[simp] theorem State.begin_sc (s : State) (len : Word) : (s.begin len).sc = s.sc := rfl
@[simp] theorem State.begin_mem (s : State) (len : Word) : (s.begin len).mem = s.mem := rfl
@[simp] theorem State.begin_marks (s : State) (len : Word) : (s.begin len).marks = s.marks := rfl
@[simp] theorem State.begin_io (s : State) (len : Word) : (s.begin len).io = s.io := rfl
@[simp] theorem State.begin_ticks (s : State) (len : Word) : (s.begin len).ticks = s.ticks := rfl

/-! `State.endWindows` writes only `loadShadow` and `mulShadow`. -/

@[simp] theorem State.endWindows_cfg (s : State) (l m : Bool) (k : Nat) : (s.endWindows l m k).cfg = s.cfg := rfl
@[simp] theorem State.endWindows_regs (s : State) (l m : Bool) (k : Nat) : (s.endWindows l m k).regs = s.regs := rfl
@[simp] theorem State.endWindows_preds (s : State) (l m : Bool) (k : Nat) : (s.endWindows l m k).preds = s.preds := rfl
@[simp] theorem State.endWindows_sp (s : State) (l m : Bool) (k : Nat) : (s.endWindows l m k).sp = s.sp := rfl
@[simp] theorem State.endWindows_pc (s : State) (l m : Bool) (k : Nat) : (s.endWindows l m k).pc = s.pc := rfl
@[simp] theorem State.endWindows_base (s : State) (l m : Bool) (k : Nat) : (s.endWindows l m k).base = s.base := rfl
@[simp] theorem State.endWindows_nextPc (s : State) (l m : Bool) (k : Nat) : (s.endWindows l m k).nextPc = s.nextPc := rfl
@[simp] theorem State.endWindows_blockSize (s : State) (l m : Bool) (k : Nat) : (s.endWindows l m k).blockSize = s.blockSize := rfl
@[simp] theorem State.endWindows_pending (s : State) (l m : Bool) (k : Nat) : (s.endWindows l m k).pending = s.pending := rfl
@[simp] theorem State.endWindows_excEntered (s : State) (l m : Bool) (k : Nat) : (s.endWindows l m k).excEntered = s.excEntered := rfl
@[simp] theorem State.endWindows_sleeping (s : State) (l m : Bool) (k : Nat) : (s.endWindows l m k).sleeping = s.sleeping := rfl
@[simp] theorem State.endWindows_exc (s : State) (l m : Bool) (k : Nat) : (s.endWindows l m k).exc = s.exc := rfl
@[simp] theorem State.endWindows_mmu (s : State) (l m : Bool) (k : Nat) : (s.endWindows l m k).mmu = s.mmu := rfl
@[simp] theorem State.endWindows_sc (s : State) (l m : Bool) (k : Nat) : (s.endWindows l m k).sc = s.sc := rfl
@[simp] theorem State.endWindows_mem (s : State) (l m : Bool) (k : Nat) : (s.endWindows l m k).mem = s.mem := rfl
@[simp] theorem State.endWindows_marks (s : State) (l m : Bool) (k : Nat) : (s.endWindows l m k).marks = s.marks := rfl
@[simp] theorem State.endWindows_io (s : State) (l m : Bool) (k : Nat) : (s.endWindows l m k).io = s.io := rfl
@[simp] theorem State.endWindows_ticks (s : State) (l m : Bool) (k : Nat) : (s.endWindows l m k).ticks = s.ticks := rfl

/-! `State.boundary` writes only `pc` and `nextPc` and `excEntered`. -/

@[simp] theorem State.boundary_cfg (s : State) (next : Word) : (s.boundary next).cfg = s.cfg := rfl
@[simp] theorem State.boundary_regs (s : State) (next : Word) : (s.boundary next).regs = s.regs := rfl
@[simp] theorem State.boundary_preds (s : State) (next : Word) : (s.boundary next).preds = s.preds := rfl
@[simp] theorem State.boundary_sp (s : State) (next : Word) : (s.boundary next).sp = s.sp := rfl
@[simp] theorem State.boundary_base (s : State) (next : Word) : (s.boundary next).base = s.base := rfl
@[simp] theorem State.boundary_blockSize (s : State) (next : Word) : (s.boundary next).blockSize = s.blockSize := rfl
@[simp] theorem State.boundary_pending (s : State) (next : Word) : (s.boundary next).pending = s.pending := rfl
@[simp] theorem State.boundary_loadShadow (s : State) (next : Word) : (s.boundary next).loadShadow = s.loadShadow := rfl
@[simp] theorem State.boundary_mulShadow (s : State) (next : Word) : (s.boundary next).mulShadow = s.mulShadow := rfl
@[simp] theorem State.boundary_sleeping (s : State) (next : Word) : (s.boundary next).sleeping = s.sleeping := rfl
@[simp] theorem State.boundary_exc (s : State) (next : Word) : (s.boundary next).exc = s.exc := rfl
@[simp] theorem State.boundary_mmu (s : State) (next : Word) : (s.boundary next).mmu = s.mmu := rfl
@[simp] theorem State.boundary_sc (s : State) (next : Word) : (s.boundary next).sc = s.sc := rfl
@[simp] theorem State.boundary_mem (s : State) (next : Word) : (s.boundary next).mem = s.mem := rfl
@[simp] theorem State.boundary_marks (s : State) (next : Word) : (s.boundary next).marks = s.marks := rfl
@[simp] theorem State.boundary_io (s : State) (next : Word) : (s.boundary next).io = s.io := rfl
@[simp] theorem State.boundary_ticks (s : State) (next : Word) : (s.boundary next).ticks = s.ticks := rfl

end Sys2Proof.Machine
end

