-- ==== Sys2Proof/Laws/Ops.lean ====
section
/-! SUPPORT. What the named operations over registers, predicates, special registers, transfers and exceptions can do,
each said once. -/
namespace Sys2Proof.Machine

/-! ### Registers -/

@[simp] theorem State.reg_zero (s : State) : s.reg 0 = 0 := rfl

theorem State.reg_setReg (s : State) (r q : GReg) (v : Word) :
    (s.setReg r v).reg q = if q = r ∧ r ≠ 0 then v else s.reg q := by
  unfold State.setReg State.reg
  by_cases hr : r = 0
  · simp [hr]
  · rw [if_neg hr]
    by_cases hq : q = 0
    · subst hq; simp [Ne.symm hr]
    · simp only [hq, if_false, hr, not_false_eq_true, and_true, ne_eq]
      by_cases h : q = r
      · subst h; simp
      · rw [if_neg h]
        simp only [Fin.getElem_fin]
        rw [Vector.getElem_set_ne]
        exact fun e => h (Fin.ext e.symm)

theorem State.reg_setReg_same (s : State) (r : GReg) (v : Word) (h : r ≠ 0) : (s.setReg r v).reg r = v := by
  simp [State.reg_setReg, h]

theorem State.reg_setReg_ne (s : State) (r q : GReg) (v : Word) (h : q ≠ r) : (s.setReg r v).reg q = s.reg q := by
  simp [State.reg_setReg, h]

@[simp] theorem State.setReg_zero (s : State) (v : Word) : s.setReg 0 v = s := rfl

theorem State.reg_congr {s t : State} (h : t.regs = s.regs) (q : GReg) : t.reg q = s.reg q := by
  simp [State.reg, h]

/-! ### Predicates -/

@[simp] theorem State.pred_zero (s : State) : s.pred 0 = true := rfl

theorem State.pred_setPred (s : State) (p q : PReg) (b : Bool) :
    (s.setPred p b).pred q = if q = p ∧ p ≠ 0 then b else s.pred q := by
  unfold State.setPred State.pred
  by_cases hp : p = 0
  · simp [hp]
  · rw [if_neg hp]
    by_cases hq : q = 0
    · subst hq; simp [Ne.symm hp]
    · simp only [hq, if_false, hp, not_false_eq_true, and_true, ne_eq]
      by_cases h : q = p
      · subst h; simp
      · rw [if_neg h]
        simp only [Fin.getElem_fin]
        rw [Vector.getElem_set_ne]
        exact fun e => h (Fin.ext e.symm)

theorem State.pred_setPred_same (s : State) (p : PReg) (b : Bool) (h : p ≠ 0) : (s.setPred p b).pred p = b := by
  simp [State.pred_setPred, h]

theorem State.pred_setPred_ne (s : State) (p q : PReg) (b : Bool) (h : q ≠ p) :
    (s.setPred p b).pred q = s.pred q := by
  simp [State.pred_setPred, h]

@[simp] theorem State.setPred_zero (s : State) (b : Bool) : s.setPred 0 b = s := rfl

theorem State.pred_setPreds (s : State) (v : Word) (q : PReg) :
    (s.setPreds v).pred q = if q = 0 then true else v.getLsbD q.val := by
  unfold State.setPreds State.pred
  by_cases hq : q = 0
  · simp [hq]
  · simp only [hq, if_false, Fin.getElem_fin, Vector.getElem_ofFn]

theorem State.pred_congr {s t : State} (h : t.preds = s.preds) (q : PReg) : t.pred q = s.pred q := by
  simp [State.pred, h]

theorem State.ps_congr {s t : State} (h : t.preds = s.preds) (x : PredOp) : t.ps x = s.ps x := by
  simp [State.ps, State.pred_congr h]

/-! ### Special registers -/

@[simp] theorem State.setSpecial_cfg (s : State) (n : SReg) (v : Word) : (s.setSpecial n v).cfg = s.cfg := by
  unfold State.setSpecial; split <;> rfl
@[simp] theorem State.setSpecial_regs (s : State) (n : SReg) (v : Word) : (s.setSpecial n v).regs = s.regs := by
  unfold State.setSpecial; split <;> rfl
@[simp] theorem State.setSpecial_pc (s : State) (n : SReg) (v : Word) : (s.setSpecial n v).pc = s.pc := by
  unfold State.setSpecial; split <;> rfl
@[simp] theorem State.setSpecial_base (s : State) (n : SReg) (v : Word) : (s.setSpecial n v).base = s.base := by
  unfold State.setSpecial; split <;> rfl
@[simp] theorem State.setSpecial_nextPc (s : State) (n : SReg) (v : Word) : (s.setSpecial n v).nextPc = s.nextPc := by
  unfold State.setSpecial; split <;> rfl
@[simp] theorem State.setSpecial_blockSize (s : State) (n : SReg) (v : Word) :
    (s.setSpecial n v).blockSize = s.blockSize := by
  unfold State.setSpecial; split <;> rfl
@[simp] theorem State.setSpecial_pending (s : State) (n : SReg) (v : Word) :
    (s.setSpecial n v).pending = s.pending := by
  unfold State.setSpecial; split <;> rfl
@[simp] theorem State.setSpecial_loadShadow (s : State) (n : SReg) (v : Word) :
    (s.setSpecial n v).loadShadow = s.loadShadow := by
  unfold State.setSpecial; split <;> rfl
@[simp] theorem State.setSpecial_mulShadow (s : State) (n : SReg) (v : Word) :
    (s.setSpecial n v).mulShadow = s.mulShadow := by
  unfold State.setSpecial; split <;> rfl
@[simp] theorem State.setSpecial_excEntered (s : State) (n : SReg) (v : Word) :
    (s.setSpecial n v).excEntered = s.excEntered := by
  unfold State.setSpecial; split <;> rfl
@[simp] theorem State.setSpecial_sleeping (s : State) (n : SReg) (v : Word) :
    (s.setSpecial n v).sleeping = s.sleeping := by
  unfold State.setSpecial; split <;> rfl
@[simp] theorem State.setSpecial_exc (s : State) (n : SReg) (v : Word) : (s.setSpecial n v).exc = s.exc := by
  unfold State.setSpecial; split <;> rfl
@[simp] theorem State.setSpecial_mmu (s : State) (n : SReg) (v : Word) : (s.setSpecial n v).mmu = s.mmu := by
  unfold State.setSpecial; split <;> rfl
@[simp] theorem State.setSpecial_sc (s : State) (n : SReg) (v : Word) : (s.setSpecial n v).sc = s.sc := by
  unfold State.setSpecial; split <;> rfl
@[simp] theorem State.setSpecial_mem (s : State) (n : SReg) (v : Word) : (s.setSpecial n v).mem = s.mem := by
  unfold State.setSpecial; split <;> rfl
@[simp] theorem State.setSpecial_marks (s : State) (n : SReg) (v : Word) : (s.setSpecial n v).marks = s.marks := by
  unfold State.setSpecial; split <;> rfl
@[simp] theorem State.setSpecial_io (s : State) (n : SReg) (v : Word) : (s.setSpecial n v).io = s.io := by
  unfold State.setSpecial; split <;> rfl
@[simp] theorem State.setSpecial_ticks (s : State) (n : SReg) (v : Word) : (s.setSpecial n v).ticks = s.ticks := by
  unfold State.setSpecial; split <;> rfl

/-- `mts` to a register other than s0 leaves the predicates alone. -/
theorem State.setSpecial_preds (s : State) (n : SReg) (v : Word) (h : n ≠ 0) :
    (s.setSpecial n v).preds = s.preds := by
  have : n.val ≠ 0 := fun e => h (Fin.ext e)
  unfold State.setSpecial; split <;> first | rfl | (exfalso; omega)

/-- `mts` to s0 leaves the special registers with storage alone. -/
theorem State.setSpecial_zero (s : State) (v : Word) : s.setSpecial 0 v = s.setPreds v := rfl

/-- A special register other than s0 reads back what was written to it. -/
theorem State.special_setSpecial_same (s : State) (n : SReg) (v : Word) (h : n ≠ 0) :
    (s.setSpecial n v).special n = v := by
  have h0 : n.val ≠ 0 := fun e => h (Fin.ext e)
  obtain ⟨n, hn⟩ := n
  simp only at h0
  have : n = 1 ∨ n = 2 ∨ n = 3 ∨ n = 4 ∨ n = 5 ∨ n = 6 ∨ n = 7 ∨ n = 8 ∨ n = 9 ∨ n = 10 ∨ n = 11 ∨ n = 12 ∨
      n = 13 ∨ n = 14 ∨ n = 15 := by omega
  rcases this with e | e | e | e | e | e | e | e | e | e | e | e | e | e | e <;> subst e <;> rfl

/-! ### Shapes of a meaning -/

theorem State.guarded_of_true {s : State} {g : PredOp} (h : s.ps g = true) (k : Result) : s.guarded g k = k := by
  simp [State.guarded, h]

theorem State.guarded_of_false {s : State} {g : PredOp} (h : s.ps g = false) (k : Result) :
    s.guarded g k = .next s := by
  simp [State.guarded, h]

/-- A guarded meaning that answers a next state was disabled, or is its body. -/
theorem State.guarded_next {s t : State} {g : PredOp} {k : Result} (h : s.guarded g k = .next t) :
    (s.ps g = false ∧ t = s) ∨ (s.ps g = true ∧ k = .next t) := by
  cases hg : s.ps g
  · rw [State.guarded_of_false hg] at h
    exact .inl ⟨rfl, by cases h; rfl⟩
  · rw [State.guarded_of_true hg] at h
    exact .inr ⟨rfl, h⟩

theorem need_of_true {ok : Bool} (h : ok = true) (why : Refusal) (k : Result) : need ok why k = k := by
  simp [need, h]

theorem need_of_false {ok : Bool} (h : ok = false) (why : Refusal) (k : Result) : need ok why k = .refused why := by
  simp [need, h]

theorem need_next {ok : Bool} {why : Refusal} {k : Result} {t : State} (h : need ok why k = .next t) :
    ok = true ∧ k = .next t := by
  cases ok
  · simp [need] at h
  · exact ⟨rfl, by simpa [need] using h⟩

theorem State.use_of_ready {s : State} {r : GReg} (h : s.shadowed r = false) (k : Word → Result) :
    s.use r k = k (s.reg r) := by
  simp [State.use, need, h]

theorem State.use_of_shadowed {s : State} {r : GReg} (h : s.shadowed r = true) (k : Word → Result) :
    s.use r k = .refused .loadDelay := by
  simp [State.use, need, h]

theorem State.use_next {s t : State} {r : GReg} {k : Word → Result} (h : s.use r k = .next t) :
    s.shadowed r = false ∧ k (s.reg r) = .next t := by
  have := need_next h
  simpa using this

theorem State.put_of_ready {s : State} {r : GReg} (h : s.shadowed r = false) (v : Word) :
    s.put r v = .next (s.setReg r v) := by
  simp [State.put, need, h]

theorem State.put_of_shadowed {s : State} {r : GReg} (h : s.shadowed r = true) (v : Word) :
    s.put r v = .refused .loadDelay := by
  simp [State.put, need, h]

theorem State.put_next {s t : State} {r : GReg} {v : Word} (h : s.put r v = .next t) :
    s.shadowed r = false ∧ t = s.setReg r v := by
  have := need_next h
  refine ⟨by simpa using this.1, ?_⟩
  cases this.2
  rfl

@[simp] theorem State.shadowed_zero (s : State) : s.shadowed 0 = false := by simp [State.shadowed]

theorem State.shadowed_of_none {s : State} (h : s.loadShadow = none) (r : GReg) : s.shadowed r = false := by
  simp [State.shadowed, h]

/-! ### Entering a block -/

/-- Words of code each of which is translated to existing external memory have these places (20_memory R63, R77,
R101). -/
theorem State.codePlaces_of {s : State} {f : Nat → Word} {pa : Nat → Nat} (l : List Nat)
    (h : ∀ j ∈ l, ∃ w, s.translate .execute (f j) = some w ∧ w.toNat = pa j ∧ pa j < 0x80000000 ∧
      pa j + 4 ≤ s.cfg.memSize) :
    s.codePlaces (l.map f) = .places (l.map pa) := by
  induction l with
  | nil => rfl
  | cons j l ih =>
    obtain ⟨w, h1, h2, h3, h4⟩ := h j (by simp)
    have hc : ¬ (0x80000000 ≤ w.toNat ∨ s.cfg.memSize < w.toNat + 4) := by omega
    simp only [List.map_cons, State.codePlaces, h1, ih (fun k hk => h k (by simp [hk])), h2]
    rw [if_neg (by simpa [h2] using hc)]

/-- If words of code have places, each of them is translated to existing external memory. -/
theorem State.codePlaces_places {s : State} {as : List Word} {pas : List Nat} (h : s.codePlaces as = .places pas) :
    pas.length = as.length ∧ ∀ j (hj : j < as.length) (hp : j < pas.length), ∃ w,
      s.translate .execute as[j] = some w ∧ w.toNat = pas[j] ∧ pas[j] < 0x80000000 ∧ pas[j] + 4 ≤ s.cfg.memSize := by
  induction as generalizing pas with
  | nil => cases h; simp
  | cons a as ih =>
    unfold State.codePlaces at h
    split at h
    · cases h
    · rename_i w hw
      split at h
      · cases h
      · rename_i hc
        split at h
        · rename_i l hl
          cases h
          obtain ⟨h1, h2⟩ := ih hl
          refine ⟨by simp [h1], fun j hj hp => ?_⟩
          cases j with
          | zero =>
            refine ⟨w, hw, rfl, ?_⟩
            simp only [List.getElem_cons_zero]
            simp at hc
            omega
          | succ j => simpa using h2 j (by simpa using hj) (by simpa using hp)
        · rename_i hn
          exact absurd h (hn _)

/-- The first of several words of code that has no place decides: it is denied, or in no memory. -/
theorem State.codePlaces_stops {s : State} {f : Nat → Word} (i : Nat) (l : List Nat) (hi : i ∈ l)
    (hl : l.Pairwise (· < ·))
    (h : ∀ j ∈ l, j < i → ∃ w, s.translate .execute (f j) = some w ∧ w.toNat < 0x80000000 ∧
      w.toNat + 4 ≤ s.cfg.memSize) :
    (s.translate .execute (f i) = none → s.codePlaces (l.map f) = .fault) ∧
      ∀ w, s.translate .execute (f i) = some w → 0x80000000 ≤ w.toNat ∨ s.cfg.memSize < w.toNat + 4 →
        s.codePlaces (l.map f) = .refuse .unmappedCode := by
  induction l with
  | nil => simp at hi
  | cons j l ih =>
    have hp := List.pairwise_cons.mp hl
    by_cases e : i = j
    · subst e
      refine ⟨fun h => by simp [State.codePlaces, h], fun w h1 h2 => ?_⟩
      simp only [List.map_cons, State.codePlaces, h1]
      rw [if_pos (by simpa using h2)]
    · have hil : i ∈ l := by simpa [e] using hi
      obtain ⟨h1, h2⟩ := ih hil hp.2 (fun k hk => h k (by simp [hk]))
      obtain ⟨w, hw, h3, h4⟩ := h j (by simp) (hp.1 i hil)
      have hc : ¬ (0x80000000 ≤ w.toNat || s.cfg.memSize < w.toNat + 4) = true := by simp; omega
      refine ⟨fun h => ?_, fun w' h h5 => ?_⟩
      · simp only [List.map_cons, State.codePlaces, hw, if_neg hc, h1 h]
      · simp only [List.map_cons, State.codePlaces, hw, if_neg hc, h2 w' h h5]

/-- The places of words of code depend on nothing but the configuration and the MMU's translation. -/
theorem State.codePlaces_congr {s t : State} (hc : t.cfg = s.cfg) (ht : ∀ a, t.translate .execute a = s.translate .execute a)
    (as : List Word) : t.codePlaces as = s.codePlaces as := by
  induction as with
  | nil => rfl
  | cons a as ih => simp only [State.codePlaces, ht, hc, ih]

/-- Entering a block changes the base, the block's size and the marks of stored code, and nothing else; the target is
word aligned. -/
theorem State.enterBlock_entered {s u : State} {b t : Word} (h : s.enterBlock b t = .entered u) :
    t.toNat % 4 = 0 ∧
      ∃ n m, u = { s with base := b, blockSize := n, marks := m } ∧
        m.dcStale = s.marks.dcStale ∧ m.dcDirty = s.marks.dcDirty ∧
        (∃ p : Host.Cell → Bool, m.icStale = s.marks.icStale.filter p) ∧ m.ispmStale = [] := by
  unfold State.enterBlock at h
  split at h
  · cases h
  · rename_i ht
    refine ⟨by simpa using ht, ?_⟩
    split at h
    · split at h
      · cases h
      · cases h
      · split at h
        · cases h
        · cases h
        · split at h
          · cases h
            exact ⟨_, _, rfl, rfl, rfl, ⟨_, rfl⟩, rfl⟩
          · cases h
    · split at h
      · cases h
      · split at h
        · cases h
        · cases h
          refine ⟨_, _, rfl, rfl, rfl, ?_, rfl⟩
          unfold Marks.afterTransfer
          cases s.cfg.methodCache
          · exact ⟨_, rfl⟩
          · exact ⟨fun _ => true, (List.filter_eq_self.mpr (fun _ _ => rfl)).symm⟩

/-! ### Exceptions -/

/-- Exception entry, if it answers a next state, saves the return point, pushes the status, records the number and
stands at the vector (60_exceptions R420). -/
theorem State.takeException_next {s t : State} {n : Fin 32} {ret : Word} (h : s.takeException n ret = .next t) :
    s.exc.vec[n].toNat % 4 = 0 ∧
      ∃ z m, t = { s with
          sp := { s.sp with sxb := s.base, sxo := ret - s.base }
          exc := { s.exc with status := (s.exc.status <<< 2) ||| 2, source := BitVec.ofNat 32 n.val }
          loadShadow := none
          excEntered := true
          base := s.exc.vec[n]
          pc := s.exc.vec[n]
          blockSize := z
          marks := m } ∧
        m.dcStale = s.marks.dcStale ∧ m.dcDirty = s.marks.dcDirty ∧
        (∃ p : Host.Cell → Bool, m.icStale = s.marks.icStale.filter p) ∧ m.ispmStale = [] := by
  unfold State.takeException at h
  simp only at h
  split at h
  · rename_i u hu
    obtain ⟨ha, z, m, rfl, hm⟩ := State.enterBlock_entered hu
    cases h
    exact ⟨ha, z, m, rfl, hm⟩
  · cases h
  · cases h

/-- A fault, if it answers a next state, is exception entry at the bundle's own address, with no transfer pending. -/
theorem State.raise_next {s t : State} {n : Fin 32} (h : s.raise n = .next t) :
    s.pending = none ∧ s.takeException n s.pc = .next t := by
  have := need_next h
  exact ⟨by simpa using this.1, this.2⟩

theorem State.illegalAccess_next {s t : State} (h : s.illegalAccess = .next t) :
    s.pending = none ∧ s.takeException 1 s.pc = .next t := State.raise_next h

theorem State.illegalOperation_next {s t : State} (h : s.illegalOperation = .next t) :
    s.pending = none ∧ s.takeException 0 s.pc = .next t := State.raise_next h

/-! ### Transfers of control -/

/-- A non-delayed cache-filling transfer either enters the block, or is a fault of the cache fill. -/
theorem State.transferNow_next {s s' t : State} {b x : Word} (h : s.transferNow s' b x = .next t) :
    s.pending = none ∧
      ((∃ u, s'.enterBlock b x = .entered u ∧ t = { u with nextPc := x }) ∨
        (s'.enterBlock b x = .fault ∧ s.illegalAccess = .next t)) := by
  have hn := need_next h
  refine ⟨by simpa using hn.1, ?_⟩
  have hk := hn.2
  split at hk
  · rename_i u hu
    cases hk
    exact .inl ⟨u, hu, rfl⟩
  · rename_i hu
    exact .inr ⟨hu, hk⟩
  · cases hk

/-- A delayed transfer only becomes pending. -/
theorem State.transferLater_next {s t : State} {n : Nat} {k : TransferKind} {b x : Word}
    (h : s.transferLater n k b x = .next t) :
    s.pending = none ∧ x.toNat % 4 = 0 ∧
      t = { s with pending := some { remaining := n, target := x, base := b, kind := k } } := by
  have hn := need_next h
  have hm := need_next hn.2
  refine ⟨by simpa using hn.1, by simpa using hm.1, ?_⟩
  cases hm.2
  rfl

theorem State.inBlock_next {s t : State} {x : Word} {k : Result} (h : s.inBlock x k = .next t) :
    s.leavesBlock x = none ∧ k = .next t := by
  unfold State.inBlock at h
  split at h
  · cases h
  · rename_i hx
    exact ⟨hx, h⟩

/-- A non-delayed local branch only sets the next bundle's address. -/
theorem State.branchNow_next {s t : State} {x : Word} (h : s.branchNow x = .next t) :
    s.pending = none ∧ x.toNat % 4 = 0 ∧ s.leavesBlock x = none ∧ t = { s with nextPc := x } := by
  have hn := need_next h
  have hm := need_next hn.2
  have hk := State.inBlock_next hm.2
  refine ⟨by simpa using hn.1, by simpa using hm.1, hk.1, ?_⟩
  cases hk.2
  rfl

/-- A delayed local branch only becomes pending. -/
theorem State.branchLater_next {s t : State} {x : Word} (h : s.branchLater x = .next t) :
    s.pending = none ∧ x.toNat % 4 = 0 ∧ s.leavesBlock x = none ∧
      t = { s with pending := some { remaining := 2, target := x, base := s.base, kind := .br } } := by
  have hk := State.inBlock_next h
  have hl := State.transferLater_next hk.2
  exact ⟨hl.1, hl.2.1, hk.1, hl.2.2⟩

/-- What the moment of transfer changes, by the kind of transfer. -/
theorem State.complete_entered {s u : State} {p : Pending} (h : s.complete p = .entered u) :
    (p.kind = .br ∧ u = s) ∨
      (p.kind = .call ∧ (s.link s.nextPc).enterBlock p.base p.target = .entered u) ∨
      ((p.kind = .brcf ∨ p.kind = .ret) ∧ s.enterBlock p.base p.target = .entered u) ∨
      (p.kind = .xret ∧ s.restoreStatus.enterBlock p.base p.target = .entered u) := by
  unfold State.complete at h
  split at h <;> rename_i hk
  · cases h; exact .inl ⟨hk, rfl⟩
  · exact .inr (.inl ⟨hk, h⟩)
  · exact .inr (.inr (.inl ⟨.inl hk, h⟩))
  · exact .inr (.inr (.inl ⟨.inr hk, h⟩))
  · exact .inr (.inr (.inr ⟨hk, h⟩))

/-- The first fetch after reset enters the block at `base`; any other finds the state as it is. Either way the block is
entered afterwards. -/
theorem State.settle_entered {s t : State} (h : s.settle = .entered t) :
    t.unentered = false ∧ ((s.unentered = false ∧ t = s) ∨
      (s.unentered = true ∧ s.enterBlock s.base s.pc = .entered t)) := by
  unfold State.settle at h
  split at h
  · rename_i hu
    refine ⟨?_, .inr ⟨hu, h⟩⟩
    simp only [State.unentered, Bool.and_eq_true, decide_eq_true_eq] at hu
    unfold State.enterBlock at h
    split at h
    · cases h
    · rw [if_pos (by simp [hu.1.1, hu.2])] at h
      split at h
      · cases h
      · cases h
      · split at h
        · cases h
        · cases h
        · split at h <;> cases h
          simp [State.unentered]
  · rename_i hu
    cases h
    exact ⟨by simpa using hu, .inl ⟨by simpa using hu, rfl⟩⟩

theorem State.settle_of_entered {s : State} (h : s.unentered = false) : s.settle = .entered s := by
  simp [State.settle, h]

/-- Entering a block depends on nothing but the configuration, the mode, the MMU, the memories and the marks. -/
theorem State.enterBlock_congr {s : State} {sp : Specials} {src p : Word} {ls : Option GReg} {ee sl : Bool} {b x : Word}
    {u : State} (h : s.enterBlock b x = .entered u) :
    ({ s with sp := sp, exc := { s.exc with source := src, pend := p }, loadShadow := ls, excEntered := ee,
              sleeping := sl } : State).enterBlock b x =
      .entered { u with sp := sp, exc := { u.exc with source := src, pend := p }, loadShadow := ls, excEntered := ee,
                        sleeping := sl } := by
  generalize hS : ({ s with sp := sp, exc := { s.exc with source := src, pend := p }, loadShadow := ls,
                            excEntered := ee, sleeping := sl } : State) = S
  have hb : ∀ b, S.blockSizeAt b = s.blockSizeAt b := fun _ => by subst hS; rfl
  have hc : ∀ b, S.codeMapped b = s.codeMapped b := fun _ => by subst hS; rfl
  have hp : ∀ as, S.codePlaces as = s.codePlaces as :=
    State.codePlaces_congr (by subst hS; rfl) (fun _ => by subst hS; rfl)
  have h1 : S.cfg = s.cfg := by subst hS; rfl
  have h2 : S.marks = s.marks := by subst hS; rfl
  unfold State.enterBlock at h ⊢
  simp only [hb, hc, hp, h1, h2]
  split at h
  · cases h
  · rename_i c1
    rw [if_neg c1]
    split at h
    · rename_i c2
      rw [if_pos c2]
      split at h
      · cases h
      · cases h
      · split at h
        · cases h
        · cases h
        · split at h
          · rename_i c3
            rw [if_pos c3]
            cases h
            subst hS
            rfl
          · cases h
    · rename_i c2
      rw [if_neg c2]
      split at h
      · cases h
      · rename_i c3
        rw [if_neg c3]
        split at h
        · cases h
        · rename_i c4
          rw [if_neg c4]
          cases h
          subst hS
          rfl

end Sys2Proof.Machine
end

