-- ==== Sys2Proof/Laws/Access.lean ====
section
/-! SUPPORT. What a load, a store, a spill and a fill can change, each said once; and that they keep the memories in
canonical form. -/
namespace Sys2Proof.Machine

/-! ### The device map -/

/-- The device at an offset is one that the configuration puts there. -/
theorem deviceAt_some {c : Config} {k : Fin 16} {d : Device} (h : c.deviceAt k = some d) :
    c.offsetOf d = some k := by
  have := List.find?_some h
  simpa using this

/-! ### Loads -/

/-- A load from a device changes the devices and, by the time it takes, the pending interrupts; nothing else. -/
theorem State.loadDevice_value {s t : State} {d : Device} {off : Nat} {v : Word}
    (h : s.loadDevice d off = .value v t) : ∃ io p, t = { s with io := io, exc := { s.exc with pend := p } } := by
  have self : ∃ io p, s = { s with io := io, exc := { s.exc with pend := p } } := ⟨s.io, s.exc.pend, rfl⟩
  have uart : ∀ port, s.loadUart port off = .value v t →
      ∃ io p, t = { s with io := io, exc := { s.exc with pend := p } } := by
    intro port h
    unfold State.loadUart State.withUart at h
    simp only at h
    split at h
    · cases h; cases port <;> exact ⟨_, s.exc.pend, rfl⟩
    · split at h <;> cases h; cases port <;> exact ⟨_, s.exc.pend, rfl⟩
    · cases h
  have free : ∀ w, s.loadFree off w = .value v t →
      ∃ io p, t = { s with io := io, exc := { s.exc with pend := p } } := by
    intro w h
    unfold State.loadFree at h
    split at h <;> cases h
    exact self
  cases d with
  | cpuInfo =>
    simp only [State.loadDevice, State.loadCpuInfo] at h
    split at h
    · cases h; exact self
    · split at h <;> cases h; exact self
  | excUnit =>
    simp only [State.loadDevice] at h
    unfold State.loadExc at h
    split at h
    · cases h
    · split at h
      · cases h; exact self
      · split at h <;> cases h <;> exact self
  | timer =>
    simp only [State.loadDevice] at h
    unfold State.loadTimer State.loadTimerLow State.loadTimerHigh at h
    split at h
    · split at h <;> cases h; exact ⟨_, s.exc.pend, rfl⟩
    · cases h; exact ⟨_, s.exc.pend, rfl⟩
    · split at h <;> cases h; exact ⟨_, s.exc.pend, rfl⟩
    · cases h; exact ⟨_, s.exc.pend, rfl⟩
    · cases h
  | deadline =>
    simp only [State.loadDevice, State.loadDeadline] at h
    split at h
    · cases h
      unfold State.passTime State.request
      simp only
      split <;> split <;> exact ⟨_, _, rfl⟩
    · cases h
  | mmu =>
    simp only [State.loadDevice, State.loadMmu] at h
    split at h
    · split at h <;> cases h <;> exact self
    · cases h
  | uart => exact uart false h
  | leds => exact free _ h
  | keys => exact free _ h
  | counter =>
    simp only [State.loadDevice, State.loadCounter] at h
    split at h <;> cases h
    exact self
  | audio => cases h
  | ethMac => cases h
  | uart2 => exact uart true h

theorem State.loadLocal_value {s t : State} {a : Word} {size : Size} {v : Word} (h : s.loadLocal a size = .value v t) :
    ∃ io p, t = { s with io := io, exc := { s.exc with pend := p } } := by
  unfold State.loadLocal at h
  split at h
  · split at h <;> cases h; exact ⟨s.io, s.exc.pend, rfl⟩
  · cases h
  · split at h <;> cases h
  · split at h
    · cases h
    · split at h
      · cases h
      · exact State.loadDevice_value h
  · cases h

theorem State.loadGlobal_value {s t : State} {cached : Bool} {a : Word} {size : Size} {v : Word}
    (h : s.loadGlobal cached a size = .value v t) : t = s := by
  unfold State.loadGlobal at h
  split at h
  · cases h
  · cases h
  · split at h
    · cases h
    · split at h <;> cases h; rfl

/-- A load changes the devices and the pending interrupts at most. -/
theorem State.loadFrom_value {s t : State} {space : Space} {ea : Word} {size : Size} {v : Word}
    (h : s.loadFrom space ea size = .value v t) :
    ∃ io p, t = { s with io := io, exc := { s.exc with pend := p } } := by
  unfold State.loadFrom at h
  split at h
  · cases h
  · split at h
    · unfold State.loadSc at h
      split at h
      · cases h
      · split at h <;> cases h; exact ⟨s.io, s.exc.pend, rfl⟩
    · exact State.loadLocal_value h
    · split at h
      · exact State.loadLocal_value h
      · rw [State.loadGlobal_value h]; exact ⟨s.io, s.exc.pend, rfl⟩
    · rw [State.loadGlobal_value h]; exact ⟨s.io, s.exc.pend, rfl⟩

/-! ### Stores -/

/-- The stored word or its parts keep every memory in canonical form, and no read-only memory changes. -/
structure StoreFrame (s t : State) : Prop where
  /-- What a store may change. -/
  shape : ∃ sc mem marks exc mmu io sl,
    t = { s with sc := sc, mem := mem, marks := marks, exc := exc, mmu := mmu, io := io, sleeping := sl }
  bootRom : t.mem.bootRom = s.mem.bootRom
  bootData : t.mem.bootData = s.mem.bootData
  wf : s.memoriesWf → t.memoriesWf
  /-- In user mode the exception unit and the MMU are safe (60_exceptions R431). -/
  user : s.userMode = true → t.exc = s.exc ∧ t.mmu = s.mmu ∧ t.sleeping = s.sleeping

theorem StoreFrame.self (s : State) : StoreFrame s s :=
  ⟨⟨_, _, _, _, _, _, _, rfl⟩, rfl, rfl, id, fun _ => ⟨rfl, rfl, rfl⟩⟩

theorem StoreFrame.ofIo (s : State) (io : Io) : StoreFrame s { s with io := io } :=
  ⟨⟨_, _, _, _, _, _, _, rfl⟩, rfl, rfl, id, fun _ => ⟨rfl, rfl, rfl⟩⟩

theorem Marks.wf_cacheControl (s : State) (v : Word) (h : s.memoriesWf) : (s.cacheControl v).memoriesWf := by
  obtain ⟨a, b, c, d, e, f, g, h, i, j⟩ := h
  have icode : ∀ m : Marks, m.icStale.wf → m.invalidateCode.icStale.wf := by
    intro m hm
    refine Memory.wf_map m.icStale (fun x => if x = 1 then 2 else x) ?_ hm
    intro x hx
    split
    · decide
    · exact hx
  unfold State.cacheControl
  refine ⟨a, b, c, d, e, f, ?_, ?_, ?_, ?_⟩ <;> (try simp only) <;> split <;> split <;>
    first | assumption | exact icode _ i

theorem State.storeExc_done {s t : State} {off : Nat} {v : Word} (h : s.storeExc off v = .done t) :
    StoreFrame s t := by
  have privileged : ∀ {e : ExcUnit} {sl : Bool}, ¬ s.userMode = true →
      StoreFrame s { s with exc := e, sleeping := sl } := fun hu =>
    ⟨⟨_, _, _, _, _, _, _, rfl⟩, rfl, rfl, id, fun hu' => absurd hu' hu⟩
  unfold State.storeExc at h
  split at h
  · cases h
  · split at h
    · unfold State.userStore at h
      split at h <;> cases h; exact .self s
    · rename_i hu
      have low : off < 0x100 → ¬ s.userMode = true := by
        intro lt e
        exact hu (by simp [e, lt])
      split at h
      · rename_i n hn
        cases h
        refine privileged (low ?_)
        unfold vecIndex at hn
        split at hn
        · rename_i hc; simp at hc; exact hc.2
        · cases hn
      · split at h
        · cases h; exact privileged (low (by decide))
        · cases h; exact privileged (low (by decide))
        · cases h; exact privileged (low (by decide))
        · cases h
        · cases h
          split
          · exact privileged (low (by decide))
          · exact .self s
        · cases h
          exact ⟨⟨_, _, _, _, _, _, _, rfl⟩, rfl, rfl, Marks.wf_cacheControl s v,
            fun hu' => absurd hu' (low (by decide))⟩
        · cases h

theorem State.storeDevice_done {s t : State} {d : Device} {off : Nat} {v : Word}
    (h : s.storeDevice d off v = .done t) : StoreFrame s t := by
  have uart : ∀ port, s.storeUart port off v = .done t → StoreFrame s t := by
    intro port h
    unfold State.storeUart State.withUart at h
    simp only at h
    split at h
    · cases h
    · cases h; cases port <;> exact .ofIo s _
    · cases h
  cases d with
  | cpuInfo => cases h
  | excUnit => exact State.storeExc_done h
  | timer =>
    simp only [State.storeDevice] at h
    unfold State.storeTimer State.storeTimerLow State.storeTimerHigh at h
    split at h
    · split at h <;> cases h; exact .ofIo s _
    · cases h; exact .ofIo s _
    · split at h <;> cases h; exact .ofIo s _
    · cases h; exact .ofIo s _
    · cases h
  | deadline => simp only [State.storeDevice, State.storeDeadline] at h; split at h <;> cases h; exact .ofIo s _
  | mmu =>
    simp only [State.storeDevice, State.storeMmu] at h
    split at h
    · split at h
      · unfold State.userStore at h
        split at h <;> cases h; exact .self s
      · rename_i hu
        split at h <;> cases h <;>
          exact ⟨⟨_, _, _, _, _, _, _, rfl⟩, rfl, rfl, id, fun hu' => absurd hu' hu⟩
    · cases h
  | uart => exact uart false h
  | leds => simp only [State.storeDevice, State.storeLeds] at h; split at h <;> cases h; exact .ofIo s _
  | keys => cases h
  | counter =>
    simp only [State.storeDevice, State.storeCounter] at h
    split at h
    · cases h
    · split at h <;> cases h; exact .ofIo s _
  | audio => cases h
  | ethMac => cases h
  | uart2 => exact uart true h

theorem State.storeLocal_done {s t : State} {a : Word} {size : Size} {v : Word} (h : s.storeLocal a size v = .done t) :
    StoreFrame s t := by
  unfold State.storeLocal at h
  split at h
  · split at h <;> cases h
    refine ⟨⟨_, _, _, _, _, _, _, rfl⟩, rfl, rfl, ?_, fun _ => ⟨rfl, rfl, rfl⟩⟩
    rintro ⟨a, b, c, d⟩
    exact ⟨a, b, Memory.wf_writeWord _ _ _ c, d⟩
  · split at h <;> cases h
    refine ⟨⟨_, _, _, _, _, _, _, rfl⟩, rfl, rfl, ?_, fun _ => ⟨rfl, rfl, rfl⟩⟩
    rintro ⟨a, b, c, d, e, f, g, h, i, j⟩
    exact ⟨a, b, c, Memory.wf_writeWord _ _ _ d, e, f, g, h, i, Memory.wf_fill _ _ _ j⟩
  · split at h <;> cases h
  · split at h
    · cases h
    · split at h
      · cases h
      · exact State.storeDevice_done h
  · cases h

/-- A store to global memory keeps every memory in canonical form. -/
theorem State.wf_writeGlobal (s : State) (cached : Bool) (pa n : Nat) (v : Word) (h : s.memoriesWf) :
    (s.writeGlobal cached pa n v).memoriesWf := by
  obtain ⟨a, b, c, d, e, f, g, h, i, j⟩ := h
  refine ⟨a, Memory.wf_writeWord _ _ _ b, c, d, e, f, Memory.wf_fill _ _ _ g, ?_, Memory.wf_markCode _ _ _ i, j⟩
  unfold State.writeGlobal Marks.stored
  simp only
  split
  · exact Memory.wf_fill _ _ _ h
  · exact h

theorem State.storeGlobal_done {s t : State} {cached : Bool} {a : Word} {size : Size} {v : Word}
    (h : s.storeGlobal cached a size v = .done t) :
    ∃ pa, s.place .write a size.bytes = .at pa ∧ t = s.writeGlobal cached pa size.bytes v := by
  unfold State.storeGlobal at h
  split at h
  · cases h
  · cases h
  · rename_i pa hp
    split at h <;> cases h
    exact ⟨pa, hp, rfl⟩

theorem StoreFrame.ofGlobal {s t : State} {cached : Bool} {a : Word} {size : Size} {v : Word}
    (h : s.storeGlobal cached a size v = .done t) : StoreFrame s t := by
  obtain ⟨pa, _, rfl⟩ := State.storeGlobal_done h
  exact ⟨⟨_, _, _, _, _, _, _, rfl⟩, rfl, rfl, State.wf_writeGlobal s _ _ _ _, fun _ => ⟨rfl, rfl, rfl⟩⟩

/-- What a store can change, whatever its space. -/
theorem State.storeTo_done {s t : State} {space : Space} {ea : Word} {size : Size} {v : Word}
    (h : s.storeTo space ea size v = .done t) : StoreFrame s t := by
  unfold State.storeTo at h
  split at h
  · cases h
  · split at h
    · unfold State.storeSc at h
      split at h
      · cases h
      · split at h <;> cases h
        refine ⟨⟨_, _, _, _, _, _, _, rfl⟩, rfl, rfl, ?_, fun _ => ⟨rfl, rfl, rfl⟩⟩
        rintro ⟨a, b⟩
        exact ⟨Memory.wf_writeWord _ _ _ a, b⟩
    · exact State.storeLocal_done h
    · split at h
      · exact State.storeLocal_done h
      · exact .ofGlobal h
    · exact .ofGlobal h

/-! ### Spill and fill -/

/-- Words spilled change global memory, its marks, and `ss`, which goes down by 4 for each. -/
theorem State.spillWords_ok (n : Nat) : ∀ {s t : State}, State.spillWords n s = .ok t →
    (∃ gm m, t = { s with mem := { s.mem with gm := gm }, marks := m,
                          sp := { s.sp with ss := s.sp.ss - BitVec.ofNat 32 (4 * n) } } ∧
      m.ispmStale = s.marks.ispmStale) ∧ (s.memoriesWf → t.memoriesWf) := by
  induction n with
  | zero =>
    intro s t h
    cases h
    exact ⟨⟨s.mem.gm, s.marks, by simp, rfl⟩, id⟩
  | succ n ih =>
    intro s t h
    unfold State.spillWords State.spillWord at h
    simp only at h
    split at h
    · rename_i u hu
      split at hu <;> cases hu
      obtain ⟨⟨gm, m, rfl, hm⟩, wf⟩ := ih h
      refine ⟨⟨gm, m, ?_, hm⟩, fun hs => wf (State.wf_writeGlobal s _ _ _ _ hs)⟩
      have e : s.sp.ss - 4 - BitVec.ofNat 32 (4 * n) = s.sp.ss - BitVec.ofNat 32 (4 * (n + 1)) := by
        have e4 : BitVec.ofNat 32 (4 * (n + 1)) = BitVec.ofNat 32 (4 * n) + 4 := by
          rw [Nat.mul_add, BitVec.ofNat_add]; rfl
        rw [e4, BitVec.sub_sub, BitVec.add_comm]
      simp only [State.writeGlobal, e]
    · cases h

/-- Words filled change the stack-cache memory and `ss`, which goes up by 4 for each. -/
theorem State.fillWords_ok (n : Nat) : ∀ {s t : State}, State.fillWords n s = .ok t →
    (∃ c, t = { s with sc := c, sp := { s.sp with ss := s.sp.ss + BitVec.ofNat 32 (4 * n) } }) ∧
      (s.memoriesWf → t.memoriesWf) := by
  induction n with
  | zero =>
    intro s t h
    cases h
    exact ⟨⟨s.sc, by simp⟩, id⟩
  | succ n ih =>
    intro s t h
    unfold State.fillWords State.fillWord at h
    simp only at h
    split at h
    · rename_i u hu
      split at hu
      · split at hu <;> cases hu
        obtain ⟨⟨c, rfl⟩, wf⟩ := ih h
        refine ⟨⟨c, ?_⟩, fun hs => wf ⟨Memory.wf_writeWord _ _ _ hs.1, hs.2⟩⟩
        have e : s.sp.ss + 4 + BitVec.ofNat 32 (4 * n) = s.sp.ss + BitVec.ofNat 32 (4 * (n + 1)) := by
          have e4 : BitVec.ofNat 32 (4 * (n + 1)) = BitVec.ofNat 32 (4 * n) + 4 := by
            rw [Nat.mul_add, BitVec.ofNat_add]; rfl
          rw [e4, BitVec.add_assoc, BitVec.add_comm 4]
        simp only [e]
      · cases hu
    · cases h

theorem transferred_next {r : Except Refusal State} {t : State} (h : transferred r = .next t) : r = .ok t := by
  cases r with
  | ok u => cases h; rfl
  | error e => cases h

/-! ### Where an access goes, and what a store leaves -/

theorem State.place_of_reaches {s : State} {k : AccessKind} {va : Word} {n pa : Nat} (h : s.reaches k va n pa) :
    s.place k va n = .at pa := by
  obtain ⟨w, hw, rfl, h1, h2⟩ := h
  have low : ¬ 0x80000000 ≤ w.toNat := by omega
  have inside : ¬ s.cfg.memSize < w.toNat + n := by omega
  simp only [State.place, hw]
  rw [if_neg low, if_neg inside]

/-- A value written at distinct addresses is stored there, and nothing else changes. -/
theorem Memory.stored_writeWord {m : Memory} {as : List Nat} {addr : Nat → Nat} {n : Nat} {v : Word}
    (hn : as = (List.range n).map addr) (distinct : ∀ i j, i < n → j < n → addr i = addr j → i = j) :
    Stored m (m.writeWord as v) addr n v := by
  have hl : as.length = n := by simp [hn]
  have nd : as.Nodup := by
    rw [hn, List.Nodup, List.pairwise_map]
    refine List.Pairwise.imp_of_mem ?_ (List.nodup_range (n := n))
    intro i j hi hj ne e
    exact ne (distinct i j (by simpa using hi) (by simpa using hj) e)
  refine ⟨?_, ?_⟩
  · intro k hk
    have h1 := Memory.map_read_writeWord m as v nd
    have h2 := congrArg (fun l => l[k]?) h1
    simp only [List.getElem?_map, hl, bytesOf] at h2
    subst hn
    simpa [hk] using h2
  · intro a ha
    apply Memory.read_writeWord_other
    rw [hn]
    intro hm
    obtain ⟨k, hk, e⟩ := List.mem_map.mp hm
    exact ha k (by simpa using hk) e.symm

/-- A typed load in a ready state, in terms of what its access gives. -/
theorem loadTyped_of_value {g : PredOp} {rd ra : GReg} {s t : State} (h : s.ready g [ra, rd]) (space : Space)
    (size : Size) (signed : Bool) (imm : BitVec 7) {v : Word}
    (hl : s.loadFrom space (effective (s.reg ra) size imm) size = .value v t) :
    loadTyped space size signed g rd ra imm s = .next (t.loaded rd (extend signed size v)) := by
  have h1 := h.2 ra (by simp)
  have h2 := h.2 rd (by simp)
  simp only [loadTyped, State.guarded_of_true h.1, State.use_of_ready h1, need, h2, Bool.not_false, if_true, hl]
  rfl

/-- A typed store in a ready state, in terms of what its access gives. -/
theorem storeTyped_of_done {g : PredOp} {ra rs : GReg} {s t : State} (h : s.ready g [ra, rs]) (space : Space)
    (size : Size) (imm : BitVec 7)
    (hl : s.storeTo space (effective (s.reg ra) size imm) size (s.reg rs) = .done t) :
    storeTyped space size g ra rs imm s = .next t := by
  have h1 := h.2 ra (by simp)
  have h2 := h.2 rs (by simp)
  simp only [storeTyped, State.guarded_of_true h.1, State.use_of_ready h1, State.use_of_ready h2, hl]

end Sys2Proof.Machine
end

