-- ==== Sys2Proof/Laws/Exec.lean ====
section
/-! SUPPORT. What executing one instruction can do, said once for all instructions: if `exec i s` answers a next state,
the state has one of the shapes of `Effect`. -/
namespace Sys2Proof.Machine

/-- The marks after a code block is entered: nothing but marks of stored code goes away. -/
structure MarksEntered (m m' : Marks) : Prop where
  dcStale : m'.dcStale = m.dcStale
  dcDirty : m'.dcDirty = m.dcDirty
  icStale : ∃ p : Host.Cell → Bool, m'.icStale = m.icStale.filter p
  ispmStale : m'.ispmStale = []

/-- What an instruction that answers a next state did. -/
inductive Effect (i : Instr) (s : State) : State → Prop where
  /-- The guard is false. -/
  | disabled (off : s.ps i.guard = false) : Effect i s s
  /-- A register is written. -/
  | register (rd : GReg) (v : Word) (dst : i.destReg = some rd)
      (f : i.format = .aluR ∨ i.format = .aluI ∨ i.format = .aluL ∨ i.format = .aluB ∨ i.format = .spcF) :
      Effect i s (s.setReg rd v)
  /-- A product is written. -/
  | product (lo hi : Word) (f : i.format = .aluM) :
      Effect i s { s with sp := { s.sp with sl := lo, sh := hi }, mulShadow := s.cfg.mulDelay }
  /-- A predicate is written. -/
  | predicate (pd : PReg) (b : Bool) (dst : i.destPred = some pd)
      (f : i.format = .aluC ∨ i.format = .aluCi ∨ i.format = .aluP) : Effect i s (s.setPred pd b)
  /-- A special register is written. -/
  | special (n : SReg) (v : Word) (dst : i.destSpecial = some n) (f : i.format = .spcT) : Effect i s (s.setSpecial n v)
  /-- A register is loaded; the devices may change, and, by the time the load takes, the pending interrupts. -/
  | load (rd : GReg) (v : Word) (io : Io) (p : Word) (dst : i.destReg = some rd) (f : i.format = .ldt) :
      Effect i s ((({ s with io := io, exc := { s.exc with pend := p } } : State)).putLoaded rd v)
  /-- A value is stored. -/
  | store (t : State) (f : i.format = .stt) (frame : StoreFrame s t) : Effect i s t
  /-- The stack cache moves. -/
  | stack (sc gm : Memory) (m : Marks) (ss st : Word) (f : i.format = .stcI ∨ i.format = .stcR)
      (wf : s.memoriesWf →
        ({ s with sc := sc, mem := { s.mem with gm := gm }, marks := m } : State).memoriesWf) :
      Effect i s { s with sc := sc, mem := { s.mem with gm := gm }, marks := m, sp := { s.sp with ss := ss, st := st } }
  /-- Control goes elsewhere at the end of the bundle: a block may be entered, a call and nothing else links, a return
  from an exception and nothing else restores the status. -/
  | transfer (b x : Word) (z : Option Word) (m : Marks) (srb sro status : Word) (f : i.transfers)
      (none : s.pending = none) (aligned : x.toNat % 4 = 0) (marks : m = s.marks ∨ MarksEntered s.marks m)
      (kept : i.isXret = false → status = s.exc.status)
      (unlinked : i.isCallnd = false → srb = s.sp.srb ∧ sro = s.sp.sro) :
      Effect i s { s with base := b, blockSize := z, marks := m, nextPc := x,
                          sp := { s.sp with srb := srb, sro := sro }, exc := { s.exc with status := status } }
  /-- A transfer becomes pending. -/
  | later (p : Pending) (f : i.transfers) (none : s.pending = none) (ok : p.ok) :
      Effect i s { s with pending := some p }
  /-- An access raised `IllegalMemoryAccess`. -/
  | fault (t : State) (f : i.format = .ldt ∨ i.format = .stt ∨ i.transfers) (raised : s.illegalAccess = .next t) :
      Effect i s t
  /-- A trap. -/
  | trap (g : PredOp) (imm : BitVec 22) (n : Fin 32) (t : State) (is : i = .trap g imm) (on : s.ps g = true)
      (none : s.pending = none) (alone : s.nextPc = s.pc + 4) (number : imm.toNat = n.val)
      (entered : s.takeException n (s.pc + 4) = .next t) : Effect i s t

/-! ### One lemma for each shared meaning -/

theorem aluRegister_next {f : Word → Word → Word} {g : PredOp} {rd rs1 rs2 : GReg} {s t : State}
    (h : aluRegister f g rd rs1 rs2 s = .next t) : (s.ps g = false ∧ t = s) ∨ ∃ v, t = s.setReg rd v := by
  rcases State.guarded_next h with h | ⟨_, h⟩
  · exact .inl h
  · exact .inr ⟨_, (State.put_next (State.use_next (State.use_next h).2).2).2⟩

theorem aluConstant_next {f : Word → Word → Word} {g : PredOp} {rd rs1 : GReg} {b : Word} {s t : State}
    (h : aluConstant f g rd rs1 b s = .next t) : (s.ps g = false ∧ t = s) ∨ ∃ v, t = s.setReg rd v := by
  rcases State.guarded_next h with h | ⟨_, h⟩
  · exact .inl h
  · exact .inr ⟨_, (State.put_next (State.use_next h).2).2⟩

theorem execBcopy_next {g : PredOp} {rd rs1 : GReg} {imm : BitVec 5} {x : PredOp} {s t : State}
    (h : execBcopy g rd rs1 imm x s = .next t) : (s.ps g = false ∧ t = s) ∨ ∃ v, t = s.setReg rd v := by
  rcases State.guarded_next h with h | ⟨_, h⟩
  · exact .inl h
  · exact .inr ⟨_, (State.put_next (State.use_next h).2).2⟩

theorem execMfs_next {g : PredOp} {rd : GReg} {n : SReg} {s t : State} (h : execMfs g rd n s = .next t) :
    (s.ps g = false ∧ t = s) ∨ ∃ v, t = s.setReg rd v := by
  rcases State.guarded_next h with h | ⟨_, h⟩
  · exact .inl h
  · split at h
    · cases h
    · exact .inr ⟨_, (State.put_next h).2⟩

theorem execMts_next {g : PredOp} {n : SReg} {rs : GReg} {s t : State} (h : execMts g n rs s = .next t) :
    (s.ps g = false ∧ t = s) ∨ ∃ v, t = s.setSpecial n v := by
  rcases State.guarded_next h with h | ⟨_, h⟩
  · exact .inl h
  · have hk := (State.use_next h).2
    split at hk <;> cases hk
    exact .inr ⟨_, rfl⟩

theorem multiply_next {f : Word → Word → BitVec 64} {g : PredOp} {rs1 rs2 : GReg} {s t : State}
    (h : multiply f g rs1 rs2 s = .next t) :
    (s.ps g = false ∧ t = s) ∨
      ∃ lo hi, t = { s with sp := { s.sp with sl := lo, sh := hi }, mulShadow := s.cfg.mulDelay } := by
  rcases State.guarded_next h with h | ⟨_, h⟩
  · exact .inl h
  · have hk := (State.use_next (State.use_next h).2).2
    cases hk
    exact .inr ⟨_, _, rfl⟩

theorem compareRegister_next {f : Word → Word → Bool} {g : PredOp} {pd : PReg} {rs1 rs2 : GReg} {s t : State}
    (h : compareRegister f g pd rs1 rs2 s = .next t) : (s.ps g = false ∧ t = s) ∨ ∃ b, t = s.setPred pd b := by
  rcases State.guarded_next h with h | ⟨_, h⟩
  · exact .inl h
  · have hk := (State.use_next (State.use_next h).2).2
    cases hk
    exact .inr ⟨_, rfl⟩

theorem execBtest_next {g : PredOp} {pd : PReg} {rs1 rs2 : GReg} {s t : State}
    (h : execBtest g pd rs1 rs2 s = .next t) : (s.ps g = false ∧ t = s) ∨ ∃ b, t = s.setPred pd b := by
  rcases State.guarded_next h with h | ⟨_, h⟩
  · exact .inl h
  · have hk := (need_next (State.use_next (State.use_next h).2).2).2
    cases hk
    exact .inr ⟨_, rfl⟩

theorem compareConstant_next {f : Word → Word → Bool} {g : PredOp} {pd : PReg} {rs1 : GReg} {imm : BitVec 5}
    {s t : State} (h : compareConstant f g pd rs1 imm s = .next t) :
    (s.ps g = false ∧ t = s) ∨ ∃ b, t = s.setPred pd b := by
  rcases State.guarded_next h with h | ⟨_, h⟩
  · exact .inl h
  · have hk := (State.use_next h).2
    cases hk
    exact .inr ⟨_, rfl⟩

theorem combine_next {f : Bool → Bool → Bool} {g : PredOp} {pd : PReg} {x y : PredOp} {s t : State}
    (h : combine f g pd x y s = .next t) : (s.ps g = false ∧ t = s) ∨ ∃ b, t = s.setPred pd b := by
  rcases State.guarded_next h with h | ⟨_, h⟩
  · exact .inl h
  · cases h
    exact .inr ⟨_, rfl⟩

theorem loadTyped_next {space : Space} {size : Size} {signed : Bool} {g : PredOp} {rd ra : GReg} {imm : BitVec 7}
    {s t : State} (h : loadTyped space size signed g rd ra imm s = .next t) :
    (s.ps g = false ∧ t = s) ∨
      (∃ v io p, t = (({ s with io := io, exc := { s.exc with pend := p } } : State)).putLoaded rd v) ∨
      s.illegalAccess = .next t := by
  rcases State.guarded_next h with h | ⟨_, h⟩
  · exact .inl h
  · have hk := (need_next (State.use_next h).2).2
    split at hk
    · rename_i v u hu
      obtain ⟨io, p, rfl⟩ := State.loadFrom_value hu
      cases hk
      exact .inr (.inl ⟨_, io, p, rfl⟩)
    · exact .inr (.inr hk)
    · cases hk

theorem storeTyped_next {space : Space} {size : Size} {g : PredOp} {ra rs : GReg} {imm : BitVec 7} {s t : State}
    (h : storeTyped space size g ra rs imm s = .next t) :
    (s.ps g = false ∧ t = s) ∨ StoreFrame s t ∨ s.illegalAccess = .next t := by
  rcases State.guarded_next h with h | ⟨_, h⟩
  · exact .inl h
  · have hk := (State.use_next (State.use_next h).2).2
    split at hk
    · rename_i u hu
      cases hk
      exact .inr (.inl (State.storeTo_done hu))
    · exact .inr (.inr hk)
    · cases hk
    · cases hk

/-- What a stack-control operation changes. -/
def StackMoved (s t : State) : Prop :=
  ∃ sc gm m ss st, t = { s with sc := sc, mem := { s.mem with gm := gm }, marks := m,
                                sp := { s.sp with ss := ss, st := st } } ∧
    (s.memoriesWf → ({ s with sc := sc, mem := { s.mem with gm := gm }, marks := m } : State).memoriesWf)

theorem StackMoved.ofSpill {n : Nat} {s t : State} {st : Word}
    (h : State.spillWords n { s with sp := { s.sp with st := st } } = .ok t) : StackMoved s t := by
  obtain ⟨⟨gm, m, rfl, _⟩, wf⟩ := State.spillWords_ok n h
  exact ⟨s.sc, gm, m, _, st, rfl, fun hs => wf hs⟩

theorem StackMoved.ofFill {n : Nat} {s t : State} (h : State.fillWords n s = .ok t) : StackMoved s t := by
  obtain ⟨⟨c, rfl⟩, wf⟩ := State.fillWords_ok n h
  exact ⟨c, s.mem.gm, s.marks, _, s.sp.st, rfl, fun hs => wf hs⟩

theorem State.reserve_next {s t : State} {n : Word} (h : s.reserve n = .next t) : StackMoved s t := by
  unfold State.reserve at h
  split at h
  · cases h
  · split at h
    · cases h
    · exact .ofSpill (transferred_next h)

theorem State.ensure_next {s t : State} {n : Word} (h : s.ensure n = .next t) : StackMoved s t := by
  unfold State.ensure at h
  split at h
  · cases h
  · split at h
    · cases h
    · exact .ofFill (transferred_next h)

theorem State.free_next {s t : State} {n : Word} (h : s.free n = .next t) : StackMoved s t := by
  unfold State.free at h
  split at h
  · cases h
  · split at h <;> cases h
    exact ⟨s.sc, s.mem.gm, s.marks, _, _, rfl, id⟩

theorem State.spillTail_next {s t : State} {n : Word} (h : s.spillTail n = .next t) : StackMoved s t := by
  unfold State.spillTail at h
  split at h
  · cases h
  · split at h
    · cases h
    · exact StackMoved.ofSpill (st := s.sp.st) (transferred_next h)

/-! ### All instructions -/

theorem Effect.ofRegister {i : Instr} {s t : State} {g : PredOp} {rd : GReg} (hg : i.guard = g)
    (dst : i.destReg = some rd)
    (f : i.format = .aluR ∨ i.format = .aluI ∨ i.format = .aluL ∨ i.format = .aluB ∨ i.format = .spcF)
    (h : (s.ps g = false ∧ t = s) ∨ ∃ v, t = s.setReg rd v) : Effect i s t := by
  rcases h with ⟨off, rfl⟩ | ⟨v, rfl⟩
  · exact .disabled (hg ▸ off)
  · exact .register rd v dst f

theorem Effect.ofPredicate {i : Instr} {s t : State} {g : PredOp} {pd : PReg} (hg : i.guard = g)
    (dst : i.destPred = some pd) (f : i.format = .aluC ∨ i.format = .aluCi ∨ i.format = .aluP)
    (h : (s.ps g = false ∧ t = s) ∨ ∃ b, t = s.setPred pd b) : Effect i s t := by
  rcases h with ⟨off, rfl⟩ | ⟨b, rfl⟩
  · exact .disabled (hg ▸ off)
  · exact .predicate pd b dst f

theorem Effect.ofProduct {i : Instr} {s t : State} {g : PredOp} (hg : i.guard = g) (f : i.format = .aluM)
    (h : (s.ps g = false ∧ t = s) ∨
      ∃ lo hi, t = { s with sp := { s.sp with sl := lo, sh := hi }, mulShadow := s.cfg.mulDelay }) :
    Effect i s t := by
  rcases h with ⟨off, rfl⟩ | ⟨lo, hi, rfl⟩
  · exact .disabled (hg ▸ off)
  · exact .product lo hi f

theorem Effect.ofLoad {i : Instr} {s t : State} {g : PredOp} {rd : GReg} (hg : i.guard = g)
    (dst : i.destReg = some rd) (f : i.format = .ldt)
    (h : (s.ps g = false ∧ t = s) ∨
      (∃ v io p, t = (({ s with io := io, exc := { s.exc with pend := p } } : State)).putLoaded rd v) ∨
      s.illegalAccess = .next t) : Effect i s t := by
  rcases h with ⟨off, rfl⟩ | ⟨v, io, p, rfl⟩ | h
  · exact .disabled (hg ▸ off)
  · exact .load rd v io p dst f
  · exact .fault t (.inl f) h

theorem Effect.ofStore {i : Instr} {s t : State} {g : PredOp} (hg : i.guard = g) (f : i.format = .stt)
    (h : (s.ps g = false ∧ t = s) ∨ StoreFrame s t ∨ s.illegalAccess = .next t) : Effect i s t := by
  rcases h with ⟨off, rfl⟩ | h | h
  · exact .disabled (hg ▸ off)
  · exact .store t f h
  · exact .fault t (.inr (.inl f)) h

theorem Effect.ofStack {i : Instr} {s t : State} {g : PredOp} (hg : i.guard = g)
    (f : i.format = .stcI ∨ i.format = .stcR) {k : Result} (hk : ∀ u, k = .next u → StackMoved s u)
    (h : s.guarded g k = .next t) : Effect i s t := by
  rcases State.guarded_next h with ⟨off, rfl⟩ | ⟨_, h⟩
  · exact .disabled (hg ▸ off)
  · obtain ⟨sc, gm, m, ss, st, rfl, wf⟩ := hk t h
    exact .stack sc gm m ss st f wf

theorem Effect.ofNow {i : Instr} {s s' t : State} {b x : Word} (f : i.transfers)
    (hs : ∃ srb sro status, s' = { s with sp := { s.sp with srb := srb, sro := sro },
                                          exc := { s.exc with status := status } } ∧
      (i.isXret = false → status = s.exc.status) ∧ (i.isCallnd = false → srb = s.sp.srb ∧ sro = s.sp.sro))
    (h : s.transferNow s' b x = .next t) : Effect i s t := by
  obtain ⟨hp, ⟨u, hu, rfl⟩ | ⟨_, h⟩⟩ := State.transferNow_next h
  · obtain ⟨srb, sro, status, rfl, hx, hl⟩ := hs
    obtain ⟨ha, z, m, rfl, h1, h2, h3, h4⟩ := State.enterBlock_entered hu
    exact .transfer b x z m srb sro status f hp ha (.inr ⟨h1, h2, h3, h4⟩) hx hl
  · exact .fault t (.inr (.inr f)) h

theorem Effect.ofLater {i : Instr} {s t : State} {n : Nat} {k : TransferKind} {b x : Word} (f : i.transfers)
    (hn : 1 ≤ n ∧ n ≤ 3) (h : s.transferLater n k b x = .next t) : Effect i s t := by
  obtain ⟨hp, ha, rfl⟩ := State.transferLater_next h
  exact .later _ f hp ⟨hn.1, hn.2, ha⟩

theorem Effect.ofBranchNow {i : Instr} {s t : State} {x : Word} (f : i.transfers) (h : s.branchNow x = .next t) :
    Effect i s t := by
  obtain ⟨hp, ha, _, rfl⟩ := State.branchNow_next h
  exact .transfer s.base x s.blockSize s.marks s.sp.srb s.sp.sro s.exc.status f hp ha (.inl rfl) (fun _ => rfl)
    (fun _ => ⟨rfl, rfl⟩)

theorem Effect.ofBranchLater {i : Instr} {s t : State} {x : Word} (f : i.transfers) (h : s.branchLater x = .next t) :
    Effect i s t := by
  obtain ⟨hp, ha, _, rfl⟩ := State.branchLater_next h
  exact .later _ f hp ⟨Nat.le_succ 1, Nat.le_succ 2, ha⟩

theorem Effect.ofGuarded {i : Instr} {s t : State} {g : PredOp} {k : Result} (hg : i.guard = g)
    (hk : k = .next t → Effect i s t) (h : s.guarded g k = .next t) : Effect i s t := by
  rcases State.guarded_next h with ⟨off, rfl⟩ | ⟨_, h⟩
  · exact .disabled (hg ▸ off)
  · exact hk h

theorem Effect.ofTrap {g : PredOp} {imm : BitVec 22} {s t : State} (h : execTrap g imm s = .next t) :
    Effect (.trap g imm) s t := by
  rcases State.guarded_next h with ⟨off, rfl⟩ | ⟨on, h⟩
  · exact .disabled off
  · have h1 := need_next h
    have h2 := need_next h1.2
    have h3 := need_next h2.2
    have lt : imm.toNat < 32 := by simpa using h2.1
    refine .trap g imm _ t rfl on (by simpa using h1.1) (by simpa using h3.1) ?_ h3.2
    simp [Nat.mod_eq_of_lt lt]

theorem Effect.ofSpecial {g : PredOp} {n : SReg} {rs : GReg} {s t : State}
    (h : (s.ps g = false ∧ t = s) ∨ ∃ v, t = s.setSpecial n v) : Effect (.mts g n rs) s t := by
  rcases h with ⟨off, rfl⟩ | ⟨v, rfl⟩
  · exact .disabled off
  · exact .special n v rfl rfl

/-- The state that a non-delayed transfer starts from. -/
theorem Effect.plain (i : Instr) (s : State) : ∃ srb sro status,
    s = { s with sp := { s.sp with srb := srb, sro := sro }, exc := { s.exc with status := status } } ∧
      (i.isXret = false → status = s.exc.status) ∧ (i.isCallnd = false → srb = s.sp.srb ∧ sro = s.sp.sro) :=
  ⟨_, _, _, rfl, fun _ => rfl, fun _ => ⟨rfl, rfl⟩⟩

theorem Effect.linked (i : Instr) (s : State) (hi : i.isCallnd = true) : ∃ srb sro status,
    s.link s.nextPc = { s with sp := { s.sp with srb := srb, sro := sro }, exc := { s.exc with status := status } } ∧
      (i.isXret = false → status = s.exc.status) ∧ (i.isCallnd = false → srb = s.sp.srb ∧ sro = s.sp.sro) :=
  ⟨_, _, _, rfl, fun _ => rfl, fun h => absurd (h.symm.trans hi) (by decide)⟩

theorem Effect.restored (i : Instr) (s : State) (hi : i.isXret = true) : ∃ srb sro status,
    s.restoreStatus = { s with sp := { s.sp with srb := srb, sro := sro }, exc := { s.exc with status := status } } ∧
      (i.isXret = false → status = s.exc.status) ∧ (i.isCallnd = false → srb = s.sp.srb ∧ sro = s.sp.sro) :=
  ⟨_, _, _, rfl, fun h => absurd (h.symm.trans hi) (by decide), fun _ => ⟨rfl, rfl⟩⟩

/-- An instruction that answers a next state did one of the things `Effect` lists. -/
theorem exec_next {i : Instr} {s t : State} (h : exec i s = .next t) : Effect i s t := by
  cases i with
  | add _ _ _ _ => exact .ofRegister rfl rfl (.inl rfl) (aluRegister_next h)
  | sub _ _ _ _ => exact .ofRegister rfl rfl (.inl rfl) (aluRegister_next h)
  | xor _ _ _ _ => exact .ofRegister rfl rfl (.inl rfl) (aluRegister_next h)
  | sl _ _ _ _ => exact .ofRegister rfl rfl (.inl rfl) (aluRegister_next h)
  | sr _ _ _ _ => exact .ofRegister rfl rfl (.inl rfl) (aluRegister_next h)
  | sra _ _ _ _ => exact .ofRegister rfl rfl (.inl rfl) (aluRegister_next h)
  | or _ _ _ _ => exact .ofRegister rfl rfl (.inl rfl) (aluRegister_next h)
  | and _ _ _ _ => exact .ofRegister rfl rfl (.inl rfl) (aluRegister_next h)
  | nor _ _ _ _ => exact .ofRegister rfl rfl (.inl rfl) (aluRegister_next h)
  | shadd _ _ _ _ => exact .ofRegister rfl rfl (.inl rfl) (aluRegister_next h)
  | shadd2 _ _ _ _ => exact .ofRegister rfl rfl (.inl rfl) (aluRegister_next h)
  | addi _ _ _ _ => exact .ofRegister rfl rfl (.inr (.inl rfl)) (aluConstant_next h)
  | subi _ _ _ _ => exact .ofRegister rfl rfl (.inr (.inl rfl)) (aluConstant_next h)
  | xori _ _ _ _ => exact .ofRegister rfl rfl (.inr (.inl rfl)) (aluConstant_next h)
  | sli _ _ _ _ => exact .ofRegister rfl rfl (.inr (.inl rfl)) (aluConstant_next h)
  | sri _ _ _ _ => exact .ofRegister rfl rfl (.inr (.inl rfl)) (aluConstant_next h)
  | srai _ _ _ _ => exact .ofRegister rfl rfl (.inr (.inl rfl)) (aluConstant_next h)
  | ori _ _ _ _ => exact .ofRegister rfl rfl (.inr (.inl rfl)) (aluConstant_next h)
  | andi _ _ _ _ => exact .ofRegister rfl rfl (.inr (.inl rfl)) (aluConstant_next h)
  | addl _ _ _ _ => exact .ofRegister rfl rfl (.inr (.inr (.inl rfl))) (aluConstant_next h)
  | subl _ _ _ _ => exact .ofRegister rfl rfl (.inr (.inr (.inl rfl))) (aluConstant_next h)
  | xorl _ _ _ _ => exact .ofRegister rfl rfl (.inr (.inr (.inl rfl))) (aluConstant_next h)
  | sll _ _ _ _ => exact .ofRegister rfl rfl (.inr (.inr (.inl rfl))) (aluConstant_next h)
  | srl _ _ _ _ => exact .ofRegister rfl rfl (.inr (.inr (.inl rfl))) (aluConstant_next h)
  | sral _ _ _ _ => exact .ofRegister rfl rfl (.inr (.inr (.inl rfl))) (aluConstant_next h)
  | orl _ _ _ _ => exact .ofRegister rfl rfl (.inr (.inr (.inl rfl))) (aluConstant_next h)
  | andl _ _ _ _ => exact .ofRegister rfl rfl (.inr (.inr (.inl rfl))) (aluConstant_next h)
  | norl _ _ _ _ => exact .ofRegister rfl rfl (.inr (.inr (.inl rfl))) (aluConstant_next h)
  | shaddl _ _ _ _ => exact .ofRegister rfl rfl (.inr (.inr (.inl rfl))) (aluConstant_next h)
  | shadd2l _ _ _ _ => exact .ofRegister rfl rfl (.inr (.inr (.inl rfl))) (aluConstant_next h)
  | mul _ _ _ => exact .ofProduct rfl rfl (multiply_next h)
  | mulu _ _ _ => exact .ofProduct rfl rfl (multiply_next h)
  | cmpeq _ _ _ _ => exact .ofPredicate rfl rfl (.inl rfl) (compareRegister_next h)
  | cmpneq _ _ _ _ => exact .ofPredicate rfl rfl (.inl rfl) (compareRegister_next h)
  | cmplt _ _ _ _ => exact .ofPredicate rfl rfl (.inl rfl) (compareRegister_next h)
  | cmple _ _ _ _ => exact .ofPredicate rfl rfl (.inl rfl) (compareRegister_next h)
  | cmpult _ _ _ _ => exact .ofPredicate rfl rfl (.inl rfl) (compareRegister_next h)
  | cmpule _ _ _ _ => exact .ofPredicate rfl rfl (.inl rfl) (compareRegister_next h)
  | btest _ _ _ _ => exact .ofPredicate rfl rfl (.inl rfl) (execBtest_next h)
  | cmpeqi _ _ _ _ => exact .ofPredicate rfl rfl (.inr (.inl rfl)) (compareConstant_next h)
  | cmpneqi _ _ _ _ => exact .ofPredicate rfl rfl (.inr (.inl rfl)) (compareConstant_next h)
  | cmplti _ _ _ _ => exact .ofPredicate rfl rfl (.inr (.inl rfl)) (compareConstant_next h)
  | cmplei _ _ _ _ => exact .ofPredicate rfl rfl (.inr (.inl rfl)) (compareConstant_next h)
  | cmpulti _ _ _ _ => exact .ofPredicate rfl rfl (.inr (.inl rfl)) (compareConstant_next h)
  | cmpulei _ _ _ _ => exact .ofPredicate rfl rfl (.inr (.inl rfl)) (compareConstant_next h)
  | btesti _ _ _ _ => exact .ofPredicate rfl rfl (.inr (.inl rfl)) (compareConstant_next h)
  | por _ _ _ _ => exact .ofPredicate rfl rfl (.inr (.inr rfl)) (combine_next h)
  | pand _ _ _ _ => exact .ofPredicate rfl rfl (.inr (.inr rfl)) (combine_next h)
  | pxor _ _ _ _ => exact .ofPredicate rfl rfl (.inr (.inr rfl)) (combine_next h)
  | bcopy _ _ _ _ _ => exact .ofRegister rfl rfl (.inr (.inr (.inr (.inl rfl)))) (execBcopy_next h)
  | mts _ _ _ => exact .ofSpecial (execMts_next h)
  | mfs _ _ _ => exact .ofRegister rfl rfl (.inr (.inr (.inr (.inr rfl)))) (execMfs_next h)
  | lws _ _ _ _ => exact .ofLoad rfl rfl rfl (loadTyped_next h)
  | lwl _ _ _ _ => exact .ofLoad rfl rfl rfl (loadTyped_next h)
  | lwc _ _ _ _ => exact .ofLoad rfl rfl rfl (loadTyped_next h)
  | lwm _ _ _ _ => exact .ofLoad rfl rfl rfl (loadTyped_next h)
  | lhs _ _ _ _ => exact .ofLoad rfl rfl rfl (loadTyped_next h)
  | lhl _ _ _ _ => exact .ofLoad rfl rfl rfl (loadTyped_next h)
  | lhc _ _ _ _ => exact .ofLoad rfl rfl rfl (loadTyped_next h)
  | lhm _ _ _ _ => exact .ofLoad rfl rfl rfl (loadTyped_next h)
  | lbs _ _ _ _ => exact .ofLoad rfl rfl rfl (loadTyped_next h)
  | lbl _ _ _ _ => exact .ofLoad rfl rfl rfl (loadTyped_next h)
  | lbc _ _ _ _ => exact .ofLoad rfl rfl rfl (loadTyped_next h)
  | lbm _ _ _ _ => exact .ofLoad rfl rfl rfl (loadTyped_next h)
  | lhus _ _ _ _ => exact .ofLoad rfl rfl rfl (loadTyped_next h)
  | lhul _ _ _ _ => exact .ofLoad rfl rfl rfl (loadTyped_next h)
  | lhuc _ _ _ _ => exact .ofLoad rfl rfl rfl (loadTyped_next h)
  | lhum _ _ _ _ => exact .ofLoad rfl rfl rfl (loadTyped_next h)
  | lbus _ _ _ _ => exact .ofLoad rfl rfl rfl (loadTyped_next h)
  | lbul _ _ _ _ => exact .ofLoad rfl rfl rfl (loadTyped_next h)
  | lbuc _ _ _ _ => exact .ofLoad rfl rfl rfl (loadTyped_next h)
  | lbum _ _ _ _ => exact .ofLoad rfl rfl rfl (loadTyped_next h)
  | sws _ _ _ _ => exact .ofStore rfl rfl (storeTyped_next h)
  | swl _ _ _ _ => exact .ofStore rfl rfl (storeTyped_next h)
  | swc _ _ _ _ => exact .ofStore rfl rfl (storeTyped_next h)
  | swm _ _ _ _ => exact .ofStore rfl rfl (storeTyped_next h)
  | shs _ _ _ _ => exact .ofStore rfl rfl (storeTyped_next h)
  | shl _ _ _ _ => exact .ofStore rfl rfl (storeTyped_next h)
  | shc _ _ _ _ => exact .ofStore rfl rfl (storeTyped_next h)
  | shm _ _ _ _ => exact .ofStore rfl rfl (storeTyped_next h)
  | sbs _ _ _ _ => exact .ofStore rfl rfl (storeTyped_next h)
  | sbl _ _ _ _ => exact .ofStore rfl rfl (storeTyped_next h)
  | sbc _ _ _ _ => exact .ofStore rfl rfl (storeTyped_next h)
  | sbm _ _ _ _ => exact .ofStore rfl rfl (storeTyped_next h)
  | sres _ _ => exact .ofStack rfl (.inl rfl) (fun _ => State.reserve_next) h
  | sens _ _ => exact .ofStack rfl (.inl rfl) (fun _ => State.ensure_next) h
  | sfree _ _ => exact .ofStack rfl (.inl rfl) (fun _ => State.free_next) h
  | sspill _ _ => exact .ofStack rfl (.inl rfl) (fun _ => State.spillTail_next) h
  | sensR _ _ => exact .ofStack rfl (.inr rfl) (fun _ hu => State.ensure_next (State.use_next hu).2) h
  | sspillR _ _ => exact .ofStack rfl (.inr rfl) (fun _ hu => State.spillTail_next (State.use_next hu).2) h
  | callnd _ _ => exact .ofGuarded rfl (.ofNow (.inl rfl) (Effect.linked _ s rfl)) h
  | call _ _ => exact .ofGuarded rfl (.ofLater (.inl rfl) (by decide)) h
  | brnd _ _ => exact .ofGuarded rfl (.ofBranchNow (.inl rfl)) h
  | br _ _ => exact .ofGuarded rfl (.ofBranchLater (.inl rfl)) h
  | brcfnd _ _ => exact .ofGuarded rfl (.ofNow (.inl rfl) (Effect.plain _ s)) h
  | brcf _ _ => exact .ofGuarded rfl (.ofLater (.inl rfl) (by decide)) h
  | retnd _ => exact .ofGuarded rfl (.ofNow (.inr (.inl rfl)) (Effect.plain _ s)) h
  | ret _ => exact .ofGuarded rfl (.ofLater (.inr (.inl rfl)) (by decide)) h
  | xretnd _ => exact .ofGuarded rfl (.ofNow (.inr (.inl rfl)) (Effect.restored _ s rfl)) h
  | xret _ => exact .ofGuarded rfl (.ofLater (.inr (.inl rfl)) (by decide)) h
  | callndR _ _ => exact .ofGuarded rfl (fun h => .ofNow (.inr (.inr (.inl rfl))) (Effect.linked _ s rfl) (State.use_next h).2) h
  | callR _ _ => exact .ofGuarded rfl (fun h => .ofLater (.inr (.inr (.inl rfl))) (by decide) (State.use_next h).2) h
  | brndR _ _ => exact .ofGuarded rfl (fun h => .ofBranchNow (.inr (.inr (.inl rfl))) (State.use_next h).2) h
  | brR _ _ => exact .ofGuarded rfl (fun h => .ofBranchLater (.inr (.inr (.inl rfl))) (State.use_next h).2) h
  | brcfndR _ _ _ => exact .ofGuarded rfl (fun h => .ofNow (.inr (.inr (.inr rfl))) (Effect.plain _ s) (need_next (State.use_next (State.use_next h).2).2).2) h
  | brcfR _ _ _ => exact .ofGuarded rfl (fun h => .ofLater (.inr (.inr (.inr rfl))) (by decide) (need_next (State.use_next (State.use_next h).2).2).2) h
  | trap _ _ => exact .ofTrap h

end Sys2Proof.Machine
end

