-- ==== Sys2Proof/Laws/PerInstr.lean ====
section
/-! SUPPORT. A statement about each instruction as syntax, and one lemma for each constructor. -/
namespace Sys2Proof.Laws

/-! ### The shape of an encoding -/

theorem code_le (g : PredOp) : g.code ≤ 15 := by
  have := g.reg.isLt
  unfold PredOp.code
  split <;> omega

theorem sizeFlag_packWord (g : PredOp) (major low : Nat) (hm : major < 32) (hl : low < 2 ^ 22) :
    sizeFlag (packWord g major low) = false := by
  have hg := code_le g
  have : (g.code * 2 ^ 27 + major * 2 ^ 22 + low) / 2 ^ 31 = 0 := Nat.div_eq_of_lt (by omega)
  have : (g.code * 2 ^ 27 + major * 2 ^ 22 + low) % 2 ^ 32 = g.code * 2 ^ 27 + major * 2 ^ 22 + low :=
    Nat.mod_eq_of_lt (by omega)
  simp only [sizeFlag, packWord, bits, BitVec.toNat_ofNat, *]
  decide

theorem sizeFlag_packLong (g : PredOp) (rd rs1 : GReg) (func : Nat) (hf : func < 16) :
    sizeFlag (packLong g rd rs1 func) = true := by
  have hg := code_le g
  have h1 := rd.isLt
  have h2 := rs1.isLt
  simp only [sizeFlag, packLong, packFields, bits, BitVec.toNat_ofNat, beq_iff_eq]
  omega

theorem packFields_lt (a b c d : Nat) (ha : a < 32) (hb : b < 32) (hc : c < 32) (hd : d < 128) :
    packFields a b c d < 2 ^ 22 := by
  unfold packFields
  omega

theorem sizeFlag_packAlu (g : PredOp) (major a b c opc func : Nat) (hm : major < 32) (ha : a < 32) (hb : b < 32)
    (hc : c < 32) (ho : opc < 8) (hf : func < 16) : sizeFlag (packAlu g major a b c opc func) = false :=
  sizeFlag_packWord _ _ _ hm (packFields_lt _ _ _ _ ha hb hc (by omega))

/-- An instruction has as many words as 30_encoding R130 says, and bit 31 of the first is set exactly if it has two
(30_encoding R120, R124). -/
def EncodeShape.Statement (i : Instr) : Prop :=
  (encode i).length = i.words ∧
    ∃ w rest, encode i = w :: rest ∧ sizeFlag w = decide (i.words = 2)

theorem EncodeShape.add (g : PredOp) (rd rs1 rs2 : GReg) : EncodeShape.Statement (.add g rd rs1 rs2) := by
  have := rd.isLt; have := rs1.isLt; have := rs2.isLt
  exact ⟨rfl, _, _, rfl, sizeFlag_packAlu _ _ _ _ _ _ _ (by omega) (by omega) (by omega) (by omega) (by omega) (by omega)⟩

theorem EncodeShape.sub (g : PredOp) (rd rs1 rs2 : GReg) : EncodeShape.Statement (.sub g rd rs1 rs2) := by
  have := rd.isLt; have := rs1.isLt; have := rs2.isLt
  exact ⟨rfl, _, _, rfl, sizeFlag_packAlu _ _ _ _ _ _ _ (by omega) (by omega) (by omega) (by omega) (by omega) (by omega)⟩

theorem EncodeShape.xor (g : PredOp) (rd rs1 rs2 : GReg) : EncodeShape.Statement (.xor g rd rs1 rs2) := by
  have := rd.isLt; have := rs1.isLt; have := rs2.isLt
  exact ⟨rfl, _, _, rfl, sizeFlag_packAlu _ _ _ _ _ _ _ (by omega) (by omega) (by omega) (by omega) (by omega) (by omega)⟩

theorem EncodeShape.sl (g : PredOp) (rd rs1 rs2 : GReg) : EncodeShape.Statement (.sl g rd rs1 rs2) := by
  have := rd.isLt; have := rs1.isLt; have := rs2.isLt
  exact ⟨rfl, _, _, rfl, sizeFlag_packAlu _ _ _ _ _ _ _ (by omega) (by omega) (by omega) (by omega) (by omega) (by omega)⟩

theorem EncodeShape.sr (g : PredOp) (rd rs1 rs2 : GReg) : EncodeShape.Statement (.sr g rd rs1 rs2) := by
  have := rd.isLt; have := rs1.isLt; have := rs2.isLt
  exact ⟨rfl, _, _, rfl, sizeFlag_packAlu _ _ _ _ _ _ _ (by omega) (by omega) (by omega) (by omega) (by omega) (by omega)⟩

theorem EncodeShape.sra (g : PredOp) (rd rs1 rs2 : GReg) : EncodeShape.Statement (.sra g rd rs1 rs2) := by
  have := rd.isLt; have := rs1.isLt; have := rs2.isLt
  exact ⟨rfl, _, _, rfl, sizeFlag_packAlu _ _ _ _ _ _ _ (by omega) (by omega) (by omega) (by omega) (by omega) (by omega)⟩

theorem EncodeShape.or (g : PredOp) (rd rs1 rs2 : GReg) : EncodeShape.Statement (.or g rd rs1 rs2) := by
  have := rd.isLt; have := rs1.isLt; have := rs2.isLt
  exact ⟨rfl, _, _, rfl, sizeFlag_packAlu _ _ _ _ _ _ _ (by omega) (by omega) (by omega) (by omega) (by omega) (by omega)⟩

theorem EncodeShape.and (g : PredOp) (rd rs1 rs2 : GReg) : EncodeShape.Statement (.and g rd rs1 rs2) := by
  have := rd.isLt; have := rs1.isLt; have := rs2.isLt
  exact ⟨rfl, _, _, rfl, sizeFlag_packAlu _ _ _ _ _ _ _ (by omega) (by omega) (by omega) (by omega) (by omega) (by omega)⟩

theorem EncodeShape.nor (g : PredOp) (rd rs1 rs2 : GReg) : EncodeShape.Statement (.nor g rd rs1 rs2) := by
  have := rd.isLt; have := rs1.isLt; have := rs2.isLt
  exact ⟨rfl, _, _, rfl, sizeFlag_packAlu _ _ _ _ _ _ _ (by omega) (by omega) (by omega) (by omega) (by omega) (by omega)⟩

theorem EncodeShape.shadd (g : PredOp) (rd rs1 rs2 : GReg) : EncodeShape.Statement (.shadd g rd rs1 rs2) := by
  have := rd.isLt; have := rs1.isLt; have := rs2.isLt
  exact ⟨rfl, _, _, rfl, sizeFlag_packAlu _ _ _ _ _ _ _ (by omega) (by omega) (by omega) (by omega) (by omega) (by omega)⟩

theorem EncodeShape.shadd2 (g : PredOp) (rd rs1 rs2 : GReg) : EncodeShape.Statement (.shadd2 g rd rs1 rs2) := by
  have := rd.isLt; have := rs1.isLt; have := rs2.isLt
  exact ⟨rfl, _, _, rfl, sizeFlag_packAlu _ _ _ _ _ _ _ (by omega) (by omega) (by omega) (by omega) (by omega) (by omega)⟩

theorem EncodeShape.addi (g : PredOp) (rd rs1 : GReg) (imm : BitVec 12) : EncodeShape.Statement (.addi g rd rs1 imm) := by
  have := rd.isLt; have := rs1.isLt; have := imm.isLt
  exact ⟨rfl, _, _, rfl, sizeFlag_packWord _ _ _ (by omega) (by omega)⟩

theorem EncodeShape.subi (g : PredOp) (rd rs1 : GReg) (imm : BitVec 12) : EncodeShape.Statement (.subi g rd rs1 imm) := by
  have := rd.isLt; have := rs1.isLt; have := imm.isLt
  exact ⟨rfl, _, _, rfl, sizeFlag_packWord _ _ _ (by omega) (by omega)⟩

theorem EncodeShape.xori (g : PredOp) (rd rs1 : GReg) (imm : BitVec 12) : EncodeShape.Statement (.xori g rd rs1 imm) := by
  have := rd.isLt; have := rs1.isLt; have := imm.isLt
  exact ⟨rfl, _, _, rfl, sizeFlag_packWord _ _ _ (by omega) (by omega)⟩

theorem EncodeShape.sli (g : PredOp) (rd rs1 : GReg) (imm : BitVec 12) : EncodeShape.Statement (.sli g rd rs1 imm) := by
  have := rd.isLt; have := rs1.isLt; have := imm.isLt
  exact ⟨rfl, _, _, rfl, sizeFlag_packWord _ _ _ (by omega) (by omega)⟩

theorem EncodeShape.sri (g : PredOp) (rd rs1 : GReg) (imm : BitVec 12) : EncodeShape.Statement (.sri g rd rs1 imm) := by
  have := rd.isLt; have := rs1.isLt; have := imm.isLt
  exact ⟨rfl, _, _, rfl, sizeFlag_packWord _ _ _ (by omega) (by omega)⟩

theorem EncodeShape.srai (g : PredOp) (rd rs1 : GReg) (imm : BitVec 12) : EncodeShape.Statement (.srai g rd rs1 imm) := by
  have := rd.isLt; have := rs1.isLt; have := imm.isLt
  exact ⟨rfl, _, _, rfl, sizeFlag_packWord _ _ _ (by omega) (by omega)⟩

theorem EncodeShape.ori (g : PredOp) (rd rs1 : GReg) (imm : BitVec 12) : EncodeShape.Statement (.ori g rd rs1 imm) := by
  have := rd.isLt; have := rs1.isLt; have := imm.isLt
  exact ⟨rfl, _, _, rfl, sizeFlag_packWord _ _ _ (by omega) (by omega)⟩

theorem EncodeShape.andi (g : PredOp) (rd rs1 : GReg) (imm : BitVec 12) : EncodeShape.Statement (.andi g rd rs1 imm) := by
  have := rd.isLt; have := rs1.isLt; have := imm.isLt
  exact ⟨rfl, _, _, rfl, sizeFlag_packWord _ _ _ (by omega) (by omega)⟩

theorem EncodeShape.addl (g : PredOp) (rd rs1 : GReg) (imm : Word) : EncodeShape.Statement (.addl g rd rs1 imm) := by
  have := rd.isLt; have := rs1.isLt
  exact ⟨rfl, _, _, rfl, sizeFlag_packLong _ _ _ _ (by omega)⟩

theorem EncodeShape.subl (g : PredOp) (rd rs1 : GReg) (imm : Word) : EncodeShape.Statement (.subl g rd rs1 imm) := by
  have := rd.isLt; have := rs1.isLt
  exact ⟨rfl, _, _, rfl, sizeFlag_packLong _ _ _ _ (by omega)⟩

theorem EncodeShape.xorl (g : PredOp) (rd rs1 : GReg) (imm : Word) : EncodeShape.Statement (.xorl g rd rs1 imm) := by
  have := rd.isLt; have := rs1.isLt
  exact ⟨rfl, _, _, rfl, sizeFlag_packLong _ _ _ _ (by omega)⟩

theorem EncodeShape.sll (g : PredOp) (rd rs1 : GReg) (imm : Word) : EncodeShape.Statement (.sll g rd rs1 imm) := by
  have := rd.isLt; have := rs1.isLt
  exact ⟨rfl, _, _, rfl, sizeFlag_packLong _ _ _ _ (by omega)⟩

theorem EncodeShape.srl (g : PredOp) (rd rs1 : GReg) (imm : Word) : EncodeShape.Statement (.srl g rd rs1 imm) := by
  have := rd.isLt; have := rs1.isLt
  exact ⟨rfl, _, _, rfl, sizeFlag_packLong _ _ _ _ (by omega)⟩

theorem EncodeShape.sral (g : PredOp) (rd rs1 : GReg) (imm : Word) : EncodeShape.Statement (.sral g rd rs1 imm) := by
  have := rd.isLt; have := rs1.isLt
  exact ⟨rfl, _, _, rfl, sizeFlag_packLong _ _ _ _ (by omega)⟩

theorem EncodeShape.orl (g : PredOp) (rd rs1 : GReg) (imm : Word) : EncodeShape.Statement (.orl g rd rs1 imm) := by
  have := rd.isLt; have := rs1.isLt
  exact ⟨rfl, _, _, rfl, sizeFlag_packLong _ _ _ _ (by omega)⟩

theorem EncodeShape.andl (g : PredOp) (rd rs1 : GReg) (imm : Word) : EncodeShape.Statement (.andl g rd rs1 imm) := by
  have := rd.isLt; have := rs1.isLt
  exact ⟨rfl, _, _, rfl, sizeFlag_packLong _ _ _ _ (by omega)⟩

theorem EncodeShape.norl (g : PredOp) (rd rs1 : GReg) (imm : Word) : EncodeShape.Statement (.norl g rd rs1 imm) := by
  have := rd.isLt; have := rs1.isLt
  exact ⟨rfl, _, _, rfl, sizeFlag_packLong _ _ _ _ (by omega)⟩

theorem EncodeShape.shaddl (g : PredOp) (rd rs1 : GReg) (imm : Word) : EncodeShape.Statement (.shaddl g rd rs1 imm) := by
  have := rd.isLt; have := rs1.isLt
  exact ⟨rfl, _, _, rfl, sizeFlag_packLong _ _ _ _ (by omega)⟩

theorem EncodeShape.shadd2l (g : PredOp) (rd rs1 : GReg) (imm : Word) : EncodeShape.Statement (.shadd2l g rd rs1 imm) := by
  have := rd.isLt; have := rs1.isLt
  exact ⟨rfl, _, _, rfl, sizeFlag_packLong _ _ _ _ (by omega)⟩

theorem EncodeShape.mul (g : PredOp) (rs1 rs2 : GReg) : EncodeShape.Statement (.mul g rs1 rs2) := by
  have := rs1.isLt; have := rs2.isLt
  exact ⟨rfl, _, _, rfl, sizeFlag_packAlu _ _ _ _ _ _ _ (by omega) (by omega) (by omega) (by omega) (by omega) (by omega)⟩

theorem EncodeShape.mulu (g : PredOp) (rs1 rs2 : GReg) : EncodeShape.Statement (.mulu g rs1 rs2) := by
  have := rs1.isLt; have := rs2.isLt
  exact ⟨rfl, _, _, rfl, sizeFlag_packAlu _ _ _ _ _ _ _ (by omega) (by omega) (by omega) (by omega) (by omega) (by omega)⟩

theorem EncodeShape.cmpeq (g : PredOp) (pd : PReg) (rs1 rs2 : GReg) : EncodeShape.Statement (.cmpeq g pd rs1 rs2) := by
  have := pd.isLt; have := rs1.isLt; have := rs2.isLt
  exact ⟨rfl, _, _, rfl, sizeFlag_packAlu _ _ _ _ _ _ _ (by omega) (by omega) (by omega) (by omega) (by omega) (by omega)⟩

theorem EncodeShape.cmpneq (g : PredOp) (pd : PReg) (rs1 rs2 : GReg) : EncodeShape.Statement (.cmpneq g pd rs1 rs2) := by
  have := pd.isLt; have := rs1.isLt; have := rs2.isLt
  exact ⟨rfl, _, _, rfl, sizeFlag_packAlu _ _ _ _ _ _ _ (by omega) (by omega) (by omega) (by omega) (by omega) (by omega)⟩

theorem EncodeShape.cmplt (g : PredOp) (pd : PReg) (rs1 rs2 : GReg) : EncodeShape.Statement (.cmplt g pd rs1 rs2) := by
  have := pd.isLt; have := rs1.isLt; have := rs2.isLt
  exact ⟨rfl, _, _, rfl, sizeFlag_packAlu _ _ _ _ _ _ _ (by omega) (by omega) (by omega) (by omega) (by omega) (by omega)⟩

theorem EncodeShape.cmple (g : PredOp) (pd : PReg) (rs1 rs2 : GReg) : EncodeShape.Statement (.cmple g pd rs1 rs2) := by
  have := pd.isLt; have := rs1.isLt; have := rs2.isLt
  exact ⟨rfl, _, _, rfl, sizeFlag_packAlu _ _ _ _ _ _ _ (by omega) (by omega) (by omega) (by omega) (by omega) (by omega)⟩

theorem EncodeShape.cmpult (g : PredOp) (pd : PReg) (rs1 rs2 : GReg) : EncodeShape.Statement (.cmpult g pd rs1 rs2) := by
  have := pd.isLt; have := rs1.isLt; have := rs2.isLt
  exact ⟨rfl, _, _, rfl, sizeFlag_packAlu _ _ _ _ _ _ _ (by omega) (by omega) (by omega) (by omega) (by omega) (by omega)⟩

theorem EncodeShape.cmpule (g : PredOp) (pd : PReg) (rs1 rs2 : GReg) : EncodeShape.Statement (.cmpule g pd rs1 rs2) := by
  have := pd.isLt; have := rs1.isLt; have := rs2.isLt
  exact ⟨rfl, _, _, rfl, sizeFlag_packAlu _ _ _ _ _ _ _ (by omega) (by omega) (by omega) (by omega) (by omega) (by omega)⟩

theorem EncodeShape.btest (g : PredOp) (pd : PReg) (rs1 rs2 : GReg) : EncodeShape.Statement (.btest g pd rs1 rs2) := by
  have := pd.isLt; have := rs1.isLt; have := rs2.isLt
  exact ⟨rfl, _, _, rfl, sizeFlag_packAlu _ _ _ _ _ _ _ (by omega) (by omega) (by omega) (by omega) (by omega) (by omega)⟩

theorem EncodeShape.cmpeqi (g : PredOp) (pd : PReg) (rs1 : GReg) (imm : BitVec 5) : EncodeShape.Statement (.cmpeqi g pd rs1 imm) := by
  have := pd.isLt; have := rs1.isLt; have := imm.isLt
  exact ⟨rfl, _, _, rfl, sizeFlag_packAlu _ _ _ _ _ _ _ (by omega) (by omega) (by omega) (by omega) (by omega) (by omega)⟩

theorem EncodeShape.cmpneqi (g : PredOp) (pd : PReg) (rs1 : GReg) (imm : BitVec 5) : EncodeShape.Statement (.cmpneqi g pd rs1 imm) := by
  have := pd.isLt; have := rs1.isLt; have := imm.isLt
  exact ⟨rfl, _, _, rfl, sizeFlag_packAlu _ _ _ _ _ _ _ (by omega) (by omega) (by omega) (by omega) (by omega) (by omega)⟩

theorem EncodeShape.cmplti (g : PredOp) (pd : PReg) (rs1 : GReg) (imm : BitVec 5) : EncodeShape.Statement (.cmplti g pd rs1 imm) := by
  have := pd.isLt; have := rs1.isLt; have := imm.isLt
  exact ⟨rfl, _, _, rfl, sizeFlag_packAlu _ _ _ _ _ _ _ (by omega) (by omega) (by omega) (by omega) (by omega) (by omega)⟩

theorem EncodeShape.cmplei (g : PredOp) (pd : PReg) (rs1 : GReg) (imm : BitVec 5) : EncodeShape.Statement (.cmplei g pd rs1 imm) := by
  have := pd.isLt; have := rs1.isLt; have := imm.isLt
  exact ⟨rfl, _, _, rfl, sizeFlag_packAlu _ _ _ _ _ _ _ (by omega) (by omega) (by omega) (by omega) (by omega) (by omega)⟩

theorem EncodeShape.cmpulti (g : PredOp) (pd : PReg) (rs1 : GReg) (imm : BitVec 5) : EncodeShape.Statement (.cmpulti g pd rs1 imm) := by
  have := pd.isLt; have := rs1.isLt; have := imm.isLt
  exact ⟨rfl, _, _, rfl, sizeFlag_packAlu _ _ _ _ _ _ _ (by omega) (by omega) (by omega) (by omega) (by omega) (by omega)⟩

theorem EncodeShape.cmpulei (g : PredOp) (pd : PReg) (rs1 : GReg) (imm : BitVec 5) : EncodeShape.Statement (.cmpulei g pd rs1 imm) := by
  have := pd.isLt; have := rs1.isLt; have := imm.isLt
  exact ⟨rfl, _, _, rfl, sizeFlag_packAlu _ _ _ _ _ _ _ (by omega) (by omega) (by omega) (by omega) (by omega) (by omega)⟩

theorem EncodeShape.btesti (g : PredOp) (pd : PReg) (rs1 : GReg) (imm : BitVec 5) : EncodeShape.Statement (.btesti g pd rs1 imm) := by
  have := pd.isLt; have := rs1.isLt; have := imm.isLt
  exact ⟨rfl, _, _, rfl, sizeFlag_packAlu _ _ _ _ _ _ _ (by omega) (by omega) (by omega) (by omega) (by omega) (by omega)⟩

theorem EncodeShape.por (g : PredOp) (pd : PReg) (ps1 ps2 : PredOp) : EncodeShape.Statement (.por g pd ps1 ps2) := by
  have := pd.isLt; have := code_le ps1; have := code_le ps2
  exact ⟨rfl, _, _, rfl, sizeFlag_packAlu _ _ _ _ _ _ _ (by omega) (by omega) (by omega) (by omega) (by omega) (by omega)⟩

theorem EncodeShape.pand (g : PredOp) (pd : PReg) (ps1 ps2 : PredOp) : EncodeShape.Statement (.pand g pd ps1 ps2) := by
  have := pd.isLt; have := code_le ps1; have := code_le ps2
  exact ⟨rfl, _, _, rfl, sizeFlag_packAlu _ _ _ _ _ _ _ (by omega) (by omega) (by omega) (by omega) (by omega) (by omega)⟩

theorem EncodeShape.pxor (g : PredOp) (pd : PReg) (ps1 ps2 : PredOp) : EncodeShape.Statement (.pxor g pd ps1 ps2) := by
  have := pd.isLt; have := code_le ps1; have := code_le ps2
  exact ⟨rfl, _, _, rfl, sizeFlag_packAlu _ _ _ _ _ _ _ (by omega) (by omega) (by omega) (by omega) (by omega) (by omega)⟩

theorem EncodeShape.bcopy (g : PredOp) (rd rs1 : GReg) (imm : BitVec 5) (ps : PredOp) : EncodeShape.Statement (.bcopy g rd rs1 imm ps) := by
  have := rd.isLt; have := rs1.isLt; have := imm.isLt; have := code_le ps
  exact ⟨rfl, _, _, rfl, sizeFlag_packAlu _ _ _ _ _ _ _ (by omega) (by omega) (by omega) (by omega) (by omega) (by omega)⟩

theorem EncodeShape.mts (g : PredOp) (sd : SReg) (rs1 : GReg) : EncodeShape.Statement (.mts g sd rs1) := by
  have := sd.isLt; have := rs1.isLt
  exact ⟨rfl, _, _, rfl, sizeFlag_packAlu _ _ _ _ _ _ _ (by omega) (by omega) (by omega) (by omega) (by omega) (by omega)⟩

theorem EncodeShape.mfs (g : PredOp) (rd : GReg) (ss : SReg) : EncodeShape.Statement (.mfs g rd ss) := by
  have := rd.isLt; have := ss.isLt
  exact ⟨rfl, _, _, rfl, sizeFlag_packAlu _ _ _ _ _ _ _ (by omega) (by omega) (by omega) (by omega) (by omega) (by omega)⟩

theorem EncodeShape.lws (g : PredOp) (rd ra : GReg) (imm : BitVec 7) : EncodeShape.Statement (.lws g rd ra imm) := by
  have := rd.isLt; have := ra.isLt; have := imm.isLt
  exact ⟨rfl, _, _, rfl, sizeFlag_packWord _ _ _ (by omega) (packFields_lt _ _ _ _ (by omega) (by omega) (by omega) (by omega))⟩

theorem EncodeShape.lwl (g : PredOp) (rd ra : GReg) (imm : BitVec 7) : EncodeShape.Statement (.lwl g rd ra imm) := by
  have := rd.isLt; have := ra.isLt; have := imm.isLt
  exact ⟨rfl, _, _, rfl, sizeFlag_packWord _ _ _ (by omega) (packFields_lt _ _ _ _ (by omega) (by omega) (by omega) (by omega))⟩

theorem EncodeShape.lwc (g : PredOp) (rd ra : GReg) (imm : BitVec 7) : EncodeShape.Statement (.lwc g rd ra imm) := by
  have := rd.isLt; have := ra.isLt; have := imm.isLt
  exact ⟨rfl, _, _, rfl, sizeFlag_packWord _ _ _ (by omega) (packFields_lt _ _ _ _ (by omega) (by omega) (by omega) (by omega))⟩

theorem EncodeShape.lwm (g : PredOp) (rd ra : GReg) (imm : BitVec 7) : EncodeShape.Statement (.lwm g rd ra imm) := by
  have := rd.isLt; have := ra.isLt; have := imm.isLt
  exact ⟨rfl, _, _, rfl, sizeFlag_packWord _ _ _ (by omega) (packFields_lt _ _ _ _ (by omega) (by omega) (by omega) (by omega))⟩

theorem EncodeShape.lhs (g : PredOp) (rd ra : GReg) (imm : BitVec 7) : EncodeShape.Statement (.lhs g rd ra imm) := by
  have := rd.isLt; have := ra.isLt; have := imm.isLt
  exact ⟨rfl, _, _, rfl, sizeFlag_packWord _ _ _ (by omega) (packFields_lt _ _ _ _ (by omega) (by omega) (by omega) (by omega))⟩

theorem EncodeShape.lhl (g : PredOp) (rd ra : GReg) (imm : BitVec 7) : EncodeShape.Statement (.lhl g rd ra imm) := by
  have := rd.isLt; have := ra.isLt; have := imm.isLt
  exact ⟨rfl, _, _, rfl, sizeFlag_packWord _ _ _ (by omega) (packFields_lt _ _ _ _ (by omega) (by omega) (by omega) (by omega))⟩

theorem EncodeShape.lhc (g : PredOp) (rd ra : GReg) (imm : BitVec 7) : EncodeShape.Statement (.lhc g rd ra imm) := by
  have := rd.isLt; have := ra.isLt; have := imm.isLt
  exact ⟨rfl, _, _, rfl, sizeFlag_packWord _ _ _ (by omega) (packFields_lt _ _ _ _ (by omega) (by omega) (by omega) (by omega))⟩

theorem EncodeShape.lhm (g : PredOp) (rd ra : GReg) (imm : BitVec 7) : EncodeShape.Statement (.lhm g rd ra imm) := by
  have := rd.isLt; have := ra.isLt; have := imm.isLt
  exact ⟨rfl, _, _, rfl, sizeFlag_packWord _ _ _ (by omega) (packFields_lt _ _ _ _ (by omega) (by omega) (by omega) (by omega))⟩

theorem EncodeShape.lbs (g : PredOp) (rd ra : GReg) (imm : BitVec 7) : EncodeShape.Statement (.lbs g rd ra imm) := by
  have := rd.isLt; have := ra.isLt; have := imm.isLt
  exact ⟨rfl, _, _, rfl, sizeFlag_packWord _ _ _ (by omega) (packFields_lt _ _ _ _ (by omega) (by omega) (by omega) (by omega))⟩

theorem EncodeShape.lbl (g : PredOp) (rd ra : GReg) (imm : BitVec 7) : EncodeShape.Statement (.lbl g rd ra imm) := by
  have := rd.isLt; have := ra.isLt; have := imm.isLt
  exact ⟨rfl, _, _, rfl, sizeFlag_packWord _ _ _ (by omega) (packFields_lt _ _ _ _ (by omega) (by omega) (by omega) (by omega))⟩

theorem EncodeShape.lbc (g : PredOp) (rd ra : GReg) (imm : BitVec 7) : EncodeShape.Statement (.lbc g rd ra imm) := by
  have := rd.isLt; have := ra.isLt; have := imm.isLt
  exact ⟨rfl, _, _, rfl, sizeFlag_packWord _ _ _ (by omega) (packFields_lt _ _ _ _ (by omega) (by omega) (by omega) (by omega))⟩

theorem EncodeShape.lbm (g : PredOp) (rd ra : GReg) (imm : BitVec 7) : EncodeShape.Statement (.lbm g rd ra imm) := by
  have := rd.isLt; have := ra.isLt; have := imm.isLt
  exact ⟨rfl, _, _, rfl, sizeFlag_packWord _ _ _ (by omega) (packFields_lt _ _ _ _ (by omega) (by omega) (by omega) (by omega))⟩

theorem EncodeShape.lhus (g : PredOp) (rd ra : GReg) (imm : BitVec 7) : EncodeShape.Statement (.lhus g rd ra imm) := by
  have := rd.isLt; have := ra.isLt; have := imm.isLt
  exact ⟨rfl, _, _, rfl, sizeFlag_packWord _ _ _ (by omega) (packFields_lt _ _ _ _ (by omega) (by omega) (by omega) (by omega))⟩

theorem EncodeShape.lhul (g : PredOp) (rd ra : GReg) (imm : BitVec 7) : EncodeShape.Statement (.lhul g rd ra imm) := by
  have := rd.isLt; have := ra.isLt; have := imm.isLt
  exact ⟨rfl, _, _, rfl, sizeFlag_packWord _ _ _ (by omega) (packFields_lt _ _ _ _ (by omega) (by omega) (by omega) (by omega))⟩

theorem EncodeShape.lhuc (g : PredOp) (rd ra : GReg) (imm : BitVec 7) : EncodeShape.Statement (.lhuc g rd ra imm) := by
  have := rd.isLt; have := ra.isLt; have := imm.isLt
  exact ⟨rfl, _, _, rfl, sizeFlag_packWord _ _ _ (by omega) (packFields_lt _ _ _ _ (by omega) (by omega) (by omega) (by omega))⟩

theorem EncodeShape.lhum (g : PredOp) (rd ra : GReg) (imm : BitVec 7) : EncodeShape.Statement (.lhum g rd ra imm) := by
  have := rd.isLt; have := ra.isLt; have := imm.isLt
  exact ⟨rfl, _, _, rfl, sizeFlag_packWord _ _ _ (by omega) (packFields_lt _ _ _ _ (by omega) (by omega) (by omega) (by omega))⟩

theorem EncodeShape.lbus (g : PredOp) (rd ra : GReg) (imm : BitVec 7) : EncodeShape.Statement (.lbus g rd ra imm) := by
  have := rd.isLt; have := ra.isLt; have := imm.isLt
  exact ⟨rfl, _, _, rfl, sizeFlag_packWord _ _ _ (by omega) (packFields_lt _ _ _ _ (by omega) (by omega) (by omega) (by omega))⟩

theorem EncodeShape.lbul (g : PredOp) (rd ra : GReg) (imm : BitVec 7) : EncodeShape.Statement (.lbul g rd ra imm) := by
  have := rd.isLt; have := ra.isLt; have := imm.isLt
  exact ⟨rfl, _, _, rfl, sizeFlag_packWord _ _ _ (by omega) (packFields_lt _ _ _ _ (by omega) (by omega) (by omega) (by omega))⟩

theorem EncodeShape.lbuc (g : PredOp) (rd ra : GReg) (imm : BitVec 7) : EncodeShape.Statement (.lbuc g rd ra imm) := by
  have := rd.isLt; have := ra.isLt; have := imm.isLt
  exact ⟨rfl, _, _, rfl, sizeFlag_packWord _ _ _ (by omega) (packFields_lt _ _ _ _ (by omega) (by omega) (by omega) (by omega))⟩

theorem EncodeShape.lbum (g : PredOp) (rd ra : GReg) (imm : BitVec 7) : EncodeShape.Statement (.lbum g rd ra imm) := by
  have := rd.isLt; have := ra.isLt; have := imm.isLt
  exact ⟨rfl, _, _, rfl, sizeFlag_packWord _ _ _ (by omega) (packFields_lt _ _ _ _ (by omega) (by omega) (by omega) (by omega))⟩

theorem EncodeShape.sws (g : PredOp) (ra rs : GReg) (imm : BitVec 7) : EncodeShape.Statement (.sws g ra rs imm) := by
  have := ra.isLt; have := rs.isLt; have := imm.isLt
  exact ⟨rfl, _, _, rfl, sizeFlag_packWord _ _ _ (by omega) (packFields_lt _ _ _ _ (by omega) (by omega) (by omega) (by omega))⟩

theorem EncodeShape.swl (g : PredOp) (ra rs : GReg) (imm : BitVec 7) : EncodeShape.Statement (.swl g ra rs imm) := by
  have := ra.isLt; have := rs.isLt; have := imm.isLt
  exact ⟨rfl, _, _, rfl, sizeFlag_packWord _ _ _ (by omega) (packFields_lt _ _ _ _ (by omega) (by omega) (by omega) (by omega))⟩

theorem EncodeShape.swc (g : PredOp) (ra rs : GReg) (imm : BitVec 7) : EncodeShape.Statement (.swc g ra rs imm) := by
  have := ra.isLt; have := rs.isLt; have := imm.isLt
  exact ⟨rfl, _, _, rfl, sizeFlag_packWord _ _ _ (by omega) (packFields_lt _ _ _ _ (by omega) (by omega) (by omega) (by omega))⟩

theorem EncodeShape.swm (g : PredOp) (ra rs : GReg) (imm : BitVec 7) : EncodeShape.Statement (.swm g ra rs imm) := by
  have := ra.isLt; have := rs.isLt; have := imm.isLt
  exact ⟨rfl, _, _, rfl, sizeFlag_packWord _ _ _ (by omega) (packFields_lt _ _ _ _ (by omega) (by omega) (by omega) (by omega))⟩

theorem EncodeShape.shs (g : PredOp) (ra rs : GReg) (imm : BitVec 7) : EncodeShape.Statement (.shs g ra rs imm) := by
  have := ra.isLt; have := rs.isLt; have := imm.isLt
  exact ⟨rfl, _, _, rfl, sizeFlag_packWord _ _ _ (by omega) (packFields_lt _ _ _ _ (by omega) (by omega) (by omega) (by omega))⟩

theorem EncodeShape.shl (g : PredOp) (ra rs : GReg) (imm : BitVec 7) : EncodeShape.Statement (.shl g ra rs imm) := by
  have := ra.isLt; have := rs.isLt; have := imm.isLt
  exact ⟨rfl, _, _, rfl, sizeFlag_packWord _ _ _ (by omega) (packFields_lt _ _ _ _ (by omega) (by omega) (by omega) (by omega))⟩

theorem EncodeShape.shc (g : PredOp) (ra rs : GReg) (imm : BitVec 7) : EncodeShape.Statement (.shc g ra rs imm) := by
  have := ra.isLt; have := rs.isLt; have := imm.isLt
  exact ⟨rfl, _, _, rfl, sizeFlag_packWord _ _ _ (by omega) (packFields_lt _ _ _ _ (by omega) (by omega) (by omega) (by omega))⟩

theorem EncodeShape.shm (g : PredOp) (ra rs : GReg) (imm : BitVec 7) : EncodeShape.Statement (.shm g ra rs imm) := by
  have := ra.isLt; have := rs.isLt; have := imm.isLt
  exact ⟨rfl, _, _, rfl, sizeFlag_packWord _ _ _ (by omega) (packFields_lt _ _ _ _ (by omega) (by omega) (by omega) (by omega))⟩

theorem EncodeShape.sbs (g : PredOp) (ra rs : GReg) (imm : BitVec 7) : EncodeShape.Statement (.sbs g ra rs imm) := by
  have := ra.isLt; have := rs.isLt; have := imm.isLt
  exact ⟨rfl, _, _, rfl, sizeFlag_packWord _ _ _ (by omega) (packFields_lt _ _ _ _ (by omega) (by omega) (by omega) (by omega))⟩

theorem EncodeShape.sbl (g : PredOp) (ra rs : GReg) (imm : BitVec 7) : EncodeShape.Statement (.sbl g ra rs imm) := by
  have := ra.isLt; have := rs.isLt; have := imm.isLt
  exact ⟨rfl, _, _, rfl, sizeFlag_packWord _ _ _ (by omega) (packFields_lt _ _ _ _ (by omega) (by omega) (by omega) (by omega))⟩

theorem EncodeShape.sbc (g : PredOp) (ra rs : GReg) (imm : BitVec 7) : EncodeShape.Statement (.sbc g ra rs imm) := by
  have := ra.isLt; have := rs.isLt; have := imm.isLt
  exact ⟨rfl, _, _, rfl, sizeFlag_packWord _ _ _ (by omega) (packFields_lt _ _ _ _ (by omega) (by omega) (by omega) (by omega))⟩

theorem EncodeShape.sbm (g : PredOp) (ra rs : GReg) (imm : BitVec 7) : EncodeShape.Statement (.sbm g ra rs imm) := by
  have := ra.isLt; have := rs.isLt; have := imm.isLt
  exact ⟨rfl, _, _, rfl, sizeFlag_packWord _ _ _ (by omega) (packFields_lt _ _ _ _ (by omega) (by omega) (by omega) (by omega))⟩

theorem EncodeShape.sres (g : PredOp) (imm : BitVec 18) : EncodeShape.Statement (.sres g imm) := by
  have := imm.isLt
  exact ⟨rfl, _, _, rfl, sizeFlag_packWord _ _ _ (by omega) (by omega)⟩

theorem EncodeShape.sens (g : PredOp) (imm : BitVec 18) : EncodeShape.Statement (.sens g imm) := by
  have := imm.isLt
  exact ⟨rfl, _, _, rfl, sizeFlag_packWord _ _ _ (by omega) (by omega)⟩

theorem EncodeShape.sfree (g : PredOp) (imm : BitVec 18) : EncodeShape.Statement (.sfree g imm) := by
  have := imm.isLt
  exact ⟨rfl, _, _, rfl, sizeFlag_packWord _ _ _ (by omega) (by omega)⟩

theorem EncodeShape.sspill (g : PredOp) (imm : BitVec 18) : EncodeShape.Statement (.sspill g imm) := by
  have := imm.isLt
  exact ⟨rfl, _, _, rfl, sizeFlag_packWord _ _ _ (by omega) (by omega)⟩

theorem EncodeShape.sensR (g : PredOp) (rs : GReg) : EncodeShape.Statement (.sensR g rs) := by
  have := rs.isLt
  exact ⟨rfl, _, _, rfl, sizeFlag_packWord _ _ _ (by omega) (by omega)⟩

theorem EncodeShape.sspillR (g : PredOp) (rs : GReg) : EncodeShape.Statement (.sspillR g rs) := by
  have := rs.isLt
  exact ⟨rfl, _, _, rfl, sizeFlag_packWord _ _ _ (by omega) (by omega)⟩

theorem EncodeShape.callnd (g : PredOp) (imm : BitVec 22) : EncodeShape.Statement (.callnd g imm) := by
  have := imm.isLt
  exact ⟨rfl, _, _, rfl, sizeFlag_packWord _ _ _ (by omega) (by omega)⟩

theorem EncodeShape.call (g : PredOp) (imm : BitVec 22) : EncodeShape.Statement (.call g imm) := by
  have := imm.isLt
  exact ⟨rfl, _, _, rfl, sizeFlag_packWord _ _ _ (by omega) (by omega)⟩

theorem EncodeShape.brnd (g : PredOp) (imm : BitVec 22) : EncodeShape.Statement (.brnd g imm) := by
  have := imm.isLt
  exact ⟨rfl, _, _, rfl, sizeFlag_packWord _ _ _ (by omega) (by omega)⟩

theorem EncodeShape.br (g : PredOp) (imm : BitVec 22) : EncodeShape.Statement (.br g imm) := by
  have := imm.isLt
  exact ⟨rfl, _, _, rfl, sizeFlag_packWord _ _ _ (by omega) (by omega)⟩

theorem EncodeShape.brcfnd (g : PredOp) (imm : BitVec 22) : EncodeShape.Statement (.brcfnd g imm) := by
  have := imm.isLt
  exact ⟨rfl, _, _, rfl, sizeFlag_packWord _ _ _ (by omega) (by omega)⟩

theorem EncodeShape.brcf (g : PredOp) (imm : BitVec 22) : EncodeShape.Statement (.brcf g imm) := by
  have := imm.isLt
  exact ⟨rfl, _, _, rfl, sizeFlag_packWord _ _ _ (by omega) (by omega)⟩

theorem EncodeShape.retnd (g : PredOp) : EncodeShape.Statement (.retnd g) := by
  exact ⟨rfl, _, _, rfl, sizeFlag_packWord _ _ _ (by omega) (packFields_lt _ _ _ _ (by omega) (by omega) (by omega) (by omega))⟩

theorem EncodeShape.ret (g : PredOp) : EncodeShape.Statement (.ret g) := by
  exact ⟨rfl, _, _, rfl, sizeFlag_packWord _ _ _ (by omega) (packFields_lt _ _ _ _ (by omega) (by omega) (by omega) (by omega))⟩

theorem EncodeShape.xretnd (g : PredOp) : EncodeShape.Statement (.xretnd g) := by
  exact ⟨rfl, _, _, rfl, sizeFlag_packWord _ _ _ (by omega) (packFields_lt _ _ _ _ (by omega) (by omega) (by omega) (by omega))⟩

theorem EncodeShape.xret (g : PredOp) : EncodeShape.Statement (.xret g) := by
  exact ⟨rfl, _, _, rfl, sizeFlag_packWord _ _ _ (by omega) (packFields_lt _ _ _ _ (by omega) (by omega) (by omega) (by omega))⟩

theorem EncodeShape.callndR (g : PredOp) (rs : GReg) : EncodeShape.Statement (.callndR g rs) := by
  have := rs.isLt
  exact ⟨rfl, _, _, rfl, sizeFlag_packWord _ _ _ (by omega) (packFields_lt _ _ _ _ (by omega) (by omega) (by omega) (by omega))⟩

theorem EncodeShape.callR (g : PredOp) (rs : GReg) : EncodeShape.Statement (.callR g rs) := by
  have := rs.isLt
  exact ⟨rfl, _, _, rfl, sizeFlag_packWord _ _ _ (by omega) (packFields_lt _ _ _ _ (by omega) (by omega) (by omega) (by omega))⟩

theorem EncodeShape.brndR (g : PredOp) (rs : GReg) : EncodeShape.Statement (.brndR g rs) := by
  have := rs.isLt
  exact ⟨rfl, _, _, rfl, sizeFlag_packWord _ _ _ (by omega) (packFields_lt _ _ _ _ (by omega) (by omega) (by omega) (by omega))⟩

theorem EncodeShape.brR (g : PredOp) (rs : GReg) : EncodeShape.Statement (.brR g rs) := by
  have := rs.isLt
  exact ⟨rfl, _, _, rfl, sizeFlag_packWord _ _ _ (by omega) (packFields_lt _ _ _ _ (by omega) (by omega) (by omega) (by omega))⟩

theorem EncodeShape.brcfndR (g : PredOp) (rs1 rs2 : GReg) : EncodeShape.Statement (.brcfndR g rs1 rs2) := by
  have := rs1.isLt; have := rs2.isLt
  exact ⟨rfl, _, _, rfl, sizeFlag_packWord _ _ _ (by omega) (packFields_lt _ _ _ _ (by omega) (by omega) (by omega) (by omega))⟩

theorem EncodeShape.brcfR (g : PredOp) (rs1 rs2 : GReg) : EncodeShape.Statement (.brcfR g rs1 rs2) := by
  have := rs1.isLt; have := rs2.isLt
  exact ⟨rfl, _, _, rfl, sizeFlag_packWord _ _ _ (by omega) (packFields_lt _ _ _ _ (by omega) (by omega) (by omega) (by omega))⟩

theorem EncodeShape.trap (g : PredOp) (imm : BitVec 22) : EncodeShape.Statement (.trap g imm) := by
  have := imm.isLt
  exact ⟨rfl, _, _, rfl, sizeFlag_packWord _ _ _ (by omega) (by omega)⟩

end Sys2Proof.Laws
end

