-- ==== Sys2Proof/Tests/Slice0.lean ====
section
/-! SUPPORT. Tests: what the well-formedness checks refuse, every constructor's decoding from a word written out from
the spec's tables, one step of every instruction with results taken from the spec's test vectors (95_test_vectors
section 2) unless a comment says how they were worked out, and a state that meets the hypotheses of each statement. -/
namespace Sys2Proof.Tests
open Sys2Proof.Machine

/-- The guard p0. -/
abbrev always : PredOp := { neg := false, reg := 0 }

/-- The guard !p0, which is never true. -/
abbrev never : PredOp := { neg := true, reg := 0 }

/-! ### Well-formedness: each check refuses an ill-formed term -/

theorem test_wf_trap_number : (Instr.trap always 32).problem = some .trapNumber := by decide
theorem test_wf_trap_number_ok : (Instr.trap always 31).wellFormed = true := by decide

theorem test_wf_single_issue :
    (Bundle.two (.addi always 1 0 1) (.addi always 2 0 1)).problem { Config.default with dualIssue := false } =
      some .singleIssue := by decide

theorem test_wf_long_with_second :
    (Bundle.two (.addl always 1 0 1) (.addi always 2 0 1)).problem Config.default = some .longWithSecond := by decide

theorem test_wf_second_slot_format :
    (Bundle.two (.addi always 1 0 1) (.lwc always 2 0 1)).problem Config.default = some .secondSlotFormat := by decide

theorem test_wf_trap_not_alone :
    (Bundle.two (.trap always 1) (.addi always 2 0 1)).problem Config.default = some .trapNotAlone := by decide

theorem test_wf_same_destination :
    (Bundle.two (.addi always 1 0 1) (.addi always 1 0 2)).problem Config.default = some .sameDestination := by decide

theorem test_wf_same_predicate :
    (Bundle.two (.cmpeq always 1 2 3) (.por always 1 always always)).problem Config.default = some .sameDestination := by
  decide

theorem test_wf_good_bundle :
    (Bundle.two (.addi always 0 0 1) (.addi always 0 0 2)).wellFormed Config.default = true := by decide

/-! ### Decoding: each word is written field by field as 30_encoding R129 to R147 lay its format out, with the codes
of spec/opcode_table.json; bit 31, the guard, the major opcode and so on -/

theorem test_decode_ALUr :
    decode 0b0_1101_01000_10001_11110_01001_000_0000 0 = .ok (.add ⟨true, 5⟩ 17 30 9) ∧
    decode 0b0_1101_01000_10001_11110_01001_000_0001 0 = .ok (.sub ⟨true, 5⟩ 17 30 9) ∧
    decode 0b0_1101_01000_10001_11110_01001_000_0010 0 = .ok (.xor ⟨true, 5⟩ 17 30 9) ∧
    decode 0b0_1101_01000_10001_11110_01001_000_0011 0 = .ok (.sl ⟨true, 5⟩ 17 30 9) ∧
    decode 0b0_1101_01000_10001_11110_01001_000_0100 0 = .ok (.sr ⟨true, 5⟩ 17 30 9) ∧
    decode 0b0_1101_01000_10001_11110_01001_000_0101 0 = .ok (.sra ⟨true, 5⟩ 17 30 9) ∧
    decode 0b0_1101_01000_10001_11110_01001_000_0110 0 = .ok (.or ⟨true, 5⟩ 17 30 9) ∧
    decode 0b0_1101_01000_10001_11110_01001_000_0111 0 = .ok (.and ⟨true, 5⟩ 17 30 9) ∧
    decode 0b0_1101_01000_10001_11110_01001_000_1011 0 = .ok (.nor ⟨true, 5⟩ 17 30 9) ∧
    decode 0b0_1101_01000_10001_11110_01001_000_1100 0 = .ok (.shadd ⟨true, 5⟩ 17 30 9) ∧
    decode 0b0_1101_01000_10001_11110_01001_000_1101 0 = .ok (.shadd2 ⟨true, 5⟩ 17 30 9) :=
  ⟨rfl, rfl, rfl, rfl, rfl, rfl, rfl, rfl, rfl, rfl, rfl⟩

theorem test_decode_ALUi :
    decode 0b0_1101_00000_10001_11110_100110100101 0 = .ok (.addi ⟨true, 5⟩ 17 30 0x9a5) ∧
    decode 0b0_1101_00001_10001_11110_100110100101 0 = .ok (.subi ⟨true, 5⟩ 17 30 0x9a5) ∧
    decode 0b0_1101_00010_10001_11110_100110100101 0 = .ok (.xori ⟨true, 5⟩ 17 30 0x9a5) ∧
    decode 0b0_1101_00011_10001_11110_100110100101 0 = .ok (.sli ⟨true, 5⟩ 17 30 0x9a5) ∧
    decode 0b0_1101_00100_10001_11110_100110100101 0 = .ok (.sri ⟨true, 5⟩ 17 30 0x9a5) ∧
    decode 0b0_1101_00101_10001_11110_100110100101 0 = .ok (.srai ⟨true, 5⟩ 17 30 0x9a5) ∧
    decode 0b0_1101_00110_10001_11110_100110100101 0 = .ok (.ori ⟨true, 5⟩ 17 30 0x9a5) ∧
    decode 0b0_1101_00111_10001_11110_100110100101 0 = .ok (.andi ⟨true, 5⟩ 17 30 0x9a5) :=
  ⟨rfl, rfl, rfl, rfl, rfl, rfl, rfl, rfl⟩

theorem test_decode_ALUl :
    decode 0b1_1101_11111_10001_11110_00000_000_0000 0x89abcdef = .ok (.addl ⟨true, 5⟩ 17 30 0x89abcdef) ∧
    decode 0b1_1101_11111_10001_11110_00000_000_0001 0x89abcdef = .ok (.subl ⟨true, 5⟩ 17 30 0x89abcdef) ∧
    decode 0b1_1101_11111_10001_11110_00000_000_0010 0x89abcdef = .ok (.xorl ⟨true, 5⟩ 17 30 0x89abcdef) ∧
    decode 0b1_1101_11111_10001_11110_00000_000_0011 0x89abcdef = .ok (.sll ⟨true, 5⟩ 17 30 0x89abcdef) ∧
    decode 0b1_1101_11111_10001_11110_00000_000_0100 0x89abcdef = .ok (.srl ⟨true, 5⟩ 17 30 0x89abcdef) ∧
    decode 0b1_1101_11111_10001_11110_00000_000_0101 0x89abcdef = .ok (.sral ⟨true, 5⟩ 17 30 0x89abcdef) ∧
    decode 0b1_1101_11111_10001_11110_00000_000_0110 0x89abcdef = .ok (.orl ⟨true, 5⟩ 17 30 0x89abcdef) ∧
    decode 0b1_1101_11111_10001_11110_00000_000_0111 0x89abcdef = .ok (.andl ⟨true, 5⟩ 17 30 0x89abcdef) ∧
    decode 0b1_1101_11111_10001_11110_00000_000_1011 0x89abcdef = .ok (.norl ⟨true, 5⟩ 17 30 0x89abcdef) ∧
    decode 0b1_1101_11111_10001_11110_00000_000_1100 0x89abcdef = .ok (.shaddl ⟨true, 5⟩ 17 30 0x89abcdef) ∧
    decode 0b1_1101_11111_10001_11110_00000_000_1101 0x89abcdef = .ok (.shadd2l ⟨true, 5⟩ 17 30 0x89abcdef) :=
  ⟨rfl, rfl, rfl, rfl, rfl, rfl, rfl, rfl, rfl, rfl, rfl⟩

theorem test_decode_ALUm :
    decode 0b0_1101_01000_00000_11110_01001_010_0000 0 = .ok (.mul ⟨true, 5⟩ 30 9) ∧
    decode 0b0_1101_01000_00000_11110_01001_010_0001 0 = .ok (.mulu ⟨true, 5⟩ 30 9) :=
  ⟨rfl, rfl⟩

theorem test_decode_ALUc :
    decode 0b0_1101_01000_00_110_11110_01001_011_0000 0 = .ok (.cmpeq ⟨true, 5⟩ 6 30 9) ∧
    decode 0b0_1101_01000_00_110_11110_01001_011_0001 0 = .ok (.cmpneq ⟨true, 5⟩ 6 30 9) ∧
    decode 0b0_1101_01000_00_110_11110_01001_011_0010 0 = .ok (.cmplt ⟨true, 5⟩ 6 30 9) ∧
    decode 0b0_1101_01000_00_110_11110_01001_011_0011 0 = .ok (.cmple ⟨true, 5⟩ 6 30 9) ∧
    decode 0b0_1101_01000_00_110_11110_01001_011_0100 0 = .ok (.cmpult ⟨true, 5⟩ 6 30 9) ∧
    decode 0b0_1101_01000_00_110_11110_01001_011_0101 0 = .ok (.cmpule ⟨true, 5⟩ 6 30 9) ∧
    decode 0b0_1101_01000_00_110_11110_01001_011_0110 0 = .ok (.btest ⟨true, 5⟩ 6 30 9) :=
  ⟨rfl, rfl, rfl, rfl, rfl, rfl, rfl⟩

theorem test_decode_ALUci :
    decode 0b0_1101_01000_00_110_11110_10011_110_0000 0 = .ok (.cmpeqi ⟨true, 5⟩ 6 30 19) ∧
    decode 0b0_1101_01000_00_110_11110_10011_110_0001 0 = .ok (.cmpneqi ⟨true, 5⟩ 6 30 19) ∧
    decode 0b0_1101_01000_00_110_11110_10011_110_0010 0 = .ok (.cmplti ⟨true, 5⟩ 6 30 19) ∧
    decode 0b0_1101_01000_00_110_11110_10011_110_0011 0 = .ok (.cmplei ⟨true, 5⟩ 6 30 19) ∧
    decode 0b0_1101_01000_00_110_11110_10011_110_0100 0 = .ok (.cmpulti ⟨true, 5⟩ 6 30 19) ∧
    decode 0b0_1101_01000_00_110_11110_10011_110_0101 0 = .ok (.cmpulei ⟨true, 5⟩ 6 30 19) ∧
    decode 0b0_1101_01000_00_110_11110_10011_110_0110 0 = .ok (.btesti ⟨true, 5⟩ 6 30 19) :=
  ⟨rfl, rfl, rfl, rfl, rfl, rfl, rfl⟩

theorem test_decode_ALUp :
    decode 0b0_1101_01000_00_110_0_1011_0_0100_100_0110 0 = .ok (.por ⟨true, 5⟩ 6 ⟨true, 3⟩ ⟨false, 4⟩) ∧
    decode 0b0_1101_01000_00_110_0_1011_0_0100_100_0111 0 = .ok (.pand ⟨true, 5⟩ 6 ⟨true, 3⟩ ⟨false, 4⟩) ∧
    decode 0b0_1101_01000_00_110_0_1011_0_0100_100_1010 0 = .ok (.pxor ⟨true, 5⟩ 6 ⟨true, 3⟩ ⟨false, 4⟩) :=
  ⟨rfl, rfl, rfl⟩

theorem test_decode_ALUb :
    decode 0b0_1101_01000_10001_11110_10011_101_1010 0 = .ok (.bcopy ⟨true, 5⟩ 17 30 19 ⟨true, 2⟩) :=
  rfl

theorem test_decode_SPCt :
    decode 0b0_1101_01001_00000_11110_00000_010_1010 0 = .ok (.mts ⟨true, 5⟩ 10 30) :=
  rfl

theorem test_decode_SPCf :
    decode 0b0_1101_01001_10001_00000_00000_011_1010 0 = .ok (.mfs ⟨true, 5⟩ 17 10) :=
  rfl

theorem test_decode_LDT :
    decode 0b0_1101_01010_10001_11110_00000_1010011 0 = .ok (.lws ⟨true, 5⟩ 17 30 0x53) ∧
    decode 0b0_1101_01010_10001_11110_00001_1010011 0 = .ok (.lwl ⟨true, 5⟩ 17 30 0x53) ∧
    decode 0b0_1101_01010_10001_11110_00010_1010011 0 = .ok (.lwc ⟨true, 5⟩ 17 30 0x53) ∧
    decode 0b0_1101_01010_10001_11110_00011_1010011 0 = .ok (.lwm ⟨true, 5⟩ 17 30 0x53) ∧
    decode 0b0_1101_01010_10001_11110_00100_1010011 0 = .ok (.lhs ⟨true, 5⟩ 17 30 0x53) ∧
    decode 0b0_1101_01010_10001_11110_00101_1010011 0 = .ok (.lhl ⟨true, 5⟩ 17 30 0x53) ∧
    decode 0b0_1101_01010_10001_11110_00110_1010011 0 = .ok (.lhc ⟨true, 5⟩ 17 30 0x53) ∧
    decode 0b0_1101_01010_10001_11110_00111_1010011 0 = .ok (.lhm ⟨true, 5⟩ 17 30 0x53) ∧
    decode 0b0_1101_01010_10001_11110_01000_1010011 0 = .ok (.lbs ⟨true, 5⟩ 17 30 0x53) ∧
    decode 0b0_1101_01010_10001_11110_01001_1010011 0 = .ok (.lbl ⟨true, 5⟩ 17 30 0x53) ∧
    decode 0b0_1101_01010_10001_11110_01010_1010011 0 = .ok (.lbc ⟨true, 5⟩ 17 30 0x53) ∧
    decode 0b0_1101_01010_10001_11110_01011_1010011 0 = .ok (.lbm ⟨true, 5⟩ 17 30 0x53) ∧
    decode 0b0_1101_01010_10001_11110_01100_1010011 0 = .ok (.lhus ⟨true, 5⟩ 17 30 0x53) ∧
    decode 0b0_1101_01010_10001_11110_01101_1010011 0 = .ok (.lhul ⟨true, 5⟩ 17 30 0x53) ∧
    decode 0b0_1101_01010_10001_11110_01110_1010011 0 = .ok (.lhuc ⟨true, 5⟩ 17 30 0x53) ∧
    decode 0b0_1101_01010_10001_11110_01111_1010011 0 = .ok (.lhum ⟨true, 5⟩ 17 30 0x53) ∧
    decode 0b0_1101_01010_10001_11110_10000_1010011 0 = .ok (.lbus ⟨true, 5⟩ 17 30 0x53) ∧
    decode 0b0_1101_01010_10001_11110_10001_1010011 0 = .ok (.lbul ⟨true, 5⟩ 17 30 0x53) ∧
    decode 0b0_1101_01010_10001_11110_10010_1010011 0 = .ok (.lbuc ⟨true, 5⟩ 17 30 0x53) ∧
    decode 0b0_1101_01010_10001_11110_10011_1010011 0 = .ok (.lbum ⟨true, 5⟩ 17 30 0x53) :=
  ⟨rfl, rfl, rfl, rfl, rfl, rfl, rfl, rfl, rfl, rfl, rfl, rfl, rfl, rfl, rfl, rfl, rfl, rfl, rfl, rfl⟩

theorem test_decode_STT :
    decode 0b0_1101_01011_00000_11110_01001_1010011 0 = .ok (.sws ⟨true, 5⟩ 30 9 0x53) ∧
    decode 0b0_1101_01011_00001_11110_01001_1010011 0 = .ok (.swl ⟨true, 5⟩ 30 9 0x53) ∧
    decode 0b0_1101_01011_00010_11110_01001_1010011 0 = .ok (.swc ⟨true, 5⟩ 30 9 0x53) ∧
    decode 0b0_1101_01011_00011_11110_01001_1010011 0 = .ok (.swm ⟨true, 5⟩ 30 9 0x53) ∧
    decode 0b0_1101_01011_00100_11110_01001_1010011 0 = .ok (.shs ⟨true, 5⟩ 30 9 0x53) ∧
    decode 0b0_1101_01011_00101_11110_01001_1010011 0 = .ok (.shl ⟨true, 5⟩ 30 9 0x53) ∧
    decode 0b0_1101_01011_00110_11110_01001_1010011 0 = .ok (.shc ⟨true, 5⟩ 30 9 0x53) ∧
    decode 0b0_1101_01011_00111_11110_01001_1010011 0 = .ok (.shm ⟨true, 5⟩ 30 9 0x53) ∧
    decode 0b0_1101_01011_01000_11110_01001_1010011 0 = .ok (.sbs ⟨true, 5⟩ 30 9 0x53) ∧
    decode 0b0_1101_01011_01001_11110_01001_1010011 0 = .ok (.sbl ⟨true, 5⟩ 30 9 0x53) ∧
    decode 0b0_1101_01011_01010_11110_01001_1010011 0 = .ok (.sbc ⟨true, 5⟩ 30 9 0x53) ∧
    decode 0b0_1101_01011_01011_11110_01001_1010011 0 = .ok (.sbm ⟨true, 5⟩ 30 9 0x53) :=
  ⟨rfl, rfl, rfl, rfl, rfl, rfl, rfl, rfl, rfl, rfl, rfl, rfl⟩

theorem test_decode_STCi :
    decode 0b0_1101_01100_00_00_101010010110100101 0 = .ok (.sres ⟨true, 5⟩ 0x2a5a5) ∧
    decode 0b0_1101_01100_01_00_101010010110100101 0 = .ok (.sens ⟨true, 5⟩ 0x2a5a5) ∧
    decode 0b0_1101_01100_10_00_101010010110100101 0 = .ok (.sfree ⟨true, 5⟩ 0x2a5a5) ∧
    decode 0b0_1101_01100_11_00_101010010110100101 0 = .ok (.sspill ⟨true, 5⟩ 0x2a5a5) :=
  ⟨rfl, rfl, rfl, rfl⟩

theorem test_decode_STCr :
    decode 0b0_1101_01100_01_01_0_11110_000000000000 0 = .ok (.sensR ⟨true, 5⟩ 30) ∧
    decode 0b0_1101_01100_11_01_0_11110_000000000000 0 = .ok (.sspillR ⟨true, 5⟩ 30) :=
  ⟨rfl, rfl⟩

theorem test_decode_CFLi :
    decode 0b0_1101_10000_1010100101101001011010 0 = .ok (.callnd ⟨true, 5⟩ 0x2a5a5a) ∧
    decode 0b0_1101_10001_1010100101101001011010 0 = .ok (.call ⟨true, 5⟩ 0x2a5a5a) ∧
    decode 0b0_1101_10010_1010100101101001011010 0 = .ok (.brnd ⟨true, 5⟩ 0x2a5a5a) ∧
    decode 0b0_1101_10011_1010100101101001011010 0 = .ok (.br ⟨true, 5⟩ 0x2a5a5a) ∧
    decode 0b0_1101_10100_1010100101101001011010 0 = .ok (.brcfnd ⟨true, 5⟩ 0x2a5a5a) ∧
    decode 0b0_1101_10101_1010100101101001011010 0 = .ok (.brcf ⟨true, 5⟩ 0x2a5a5a) ∧
    decode 0b0_1101_10110_1010100101101001011010 0 = .ok (.trap ⟨true, 5⟩ 0x2a5a5a) :=
  ⟨rfl, rfl, rfl, rfl, rfl, rfl, rfl⟩

theorem test_decode_CFLri :
    decode 0b0_1101_11000_00000_00000_00000_000_00_00 0 = .ok (.retnd ⟨true, 5⟩) ∧
    decode 0b0_1101_11001_00000_00000_00000_000_00_00 0 = .ok (.ret ⟨true, 5⟩) ∧
    decode 0b0_1101_11000_00000_00000_00000_000_00_01 0 = .ok (.xretnd ⟨true, 5⟩) ∧
    decode 0b0_1101_11001_00000_00000_00000_000_00_01 0 = .ok (.xret ⟨true, 5⟩) :=
  ⟨rfl, rfl, rfl, rfl⟩

theorem test_decode_CFLrs :
    decode 0b0_1101_11000_00000_11110_00000_000_01_00 0 = .ok (.callndR ⟨true, 5⟩ 30) ∧
    decode 0b0_1101_11001_00000_11110_00000_000_01_00 0 = .ok (.callR ⟨true, 5⟩ 30) ∧
    decode 0b0_1101_11000_00000_11110_00000_000_01_01 0 = .ok (.brndR ⟨true, 5⟩ 30) ∧
    decode 0b0_1101_11001_00000_11110_00000_000_01_01 0 = .ok (.brR ⟨true, 5⟩ 30) :=
  ⟨rfl, rfl, rfl, rfl⟩

theorem test_decode_CFLrt :
    decode 0b0_1101_11000_00000_11110_01001_000_10_10 0 = .ok (.brcfndR ⟨true, 5⟩ 30 9) ∧
    decode 0b0_1101_11001_00000_11110_01001_000_10_10 0 = .ok (.brcfR ⟨true, 5⟩ 30 9) :=
  ⟨rfl, rfl⟩

/-! ### Decoding: the edges of the groups of 30_encoding R150 -/

theorem test_decode_unused_codes :
    decode 0x02022188 0 = .error .aluFunction ∧ decode 0x020221C2 0 = .error .predicateFunction ∧
    decode 0x03C00000 0 = .error .majorOpcode ∧ decode 0x07c00000 0 ≠ .ok (.addl ⟨false, 0⟩ 0 0 0) := by
  refine ⟨rfl, rfl, rfl, ?_⟩
  intro h; cases h

theorem test_decode_refuses_at_the_edges :
    (∃ e, decode 0b0_0000_01000_00000_00000_00000_000_1000 0 = .error e) ∧
    (∃ e, decode 0b0_0000_01000_00000_00000_00000_000_1110 0 = .error e) ∧
    (∃ e, decode 0b0_0000_01000_00000_00000_00000_001_0000 0 = .error e) ∧
    (∃ e, decode 0b0_0000_01000_00000_00000_00000_010_0010 0 = .error e) ∧
    (∃ e, decode 0b0_0000_01000_00000_00000_00000_011_0111 0 = .error e) ∧
    (∃ e, decode 0b0_0000_01000_00000_00000_00000_110_0111 0 = .error e) ∧
    (∃ e, decode 0b0_0000_01000_00000_00000_00000_100_1000 0 = .error e) ∧
    (∃ e, decode 0b0_0000_01000_00000_00000_00000_111_0000 0 = .error e) ∧
    (∃ e, decode 0b0_0000_01001_00000_00000_00000_001_0000 0 = .error e) ∧
    (∃ e, decode 0b0_0000_01010_00000_00000_10100_0000000 0 = .error e) ∧
    (∃ e, decode 0b0_0000_01011_01100_00000_00000_0000000 0 = .error e) ∧
    (∃ e, decode 0b0_0000_01100_00_01_0_00000_000000000000 0 = .error e) ∧
    (∃ e, decode 0b0_0000_01100_01_10_000000000000000000 0 = .error e) ∧
    (∃ e, decode 0b0_0000_10111_0000000000000000000000 0 = .error e) ∧
    (∃ e, decode 0b0_0000_11000_00000_00000_00000_000_00_10 0 = .error e) ∧
    (∃ e, decode 0b0_0000_11001_00000_00000_00000_000_10_11 0 = .error e) ∧
    (∃ e, decode 0b0_0000_11000_00000_00000_00000_000_11_00 0 = .error e) ∧
    (∃ e, decode 0b0_0000_11010_0000000000000000000000 0 = .error e) :=
  ⟨⟨_, rfl⟩, ⟨_, rfl⟩, ⟨_, rfl⟩, ⟨_, rfl⟩, ⟨_, rfl⟩, ⟨_, rfl⟩, ⟨_, rfl⟩, ⟨_, rfl⟩, ⟨_, rfl⟩, ⟨_, rfl⟩, ⟨_, rfl⟩,
    ⟨_, rfl⟩, ⟨_, rfl⟩, ⟨_, rfl⟩, ⟨_, rfl⟩, ⟨_, rfl⟩, ⟨_, rfl⟩, ⟨_, rfl⟩⟩

/-- `addl r1 = r2, 0xFFFFFFFF` is 0x87C22000 0xFFFFFFFF (95_test_vectors 2.1); its second word is bits 63:32. -/
theorem test_decode_table_word :
    decodeTableWord 64 0xFFFFFFFF87C22000 = some (.addl always 1 2 0xFFFFFFFF) ∧
    decodeTableWord 32 0x00000000 = some (.addi always 0 0 0) := ⟨rfl, rfl⟩

/-! ### One step of each instruction -/

/-- The state after reset, with registers set. -/
def withRegs (l : List (GReg × Word)) : State := l.foldl (fun s p => s.setReg p.1 p.2) State.reset

/-- The same with p1 to p7 set as the bits of a word. -/
def withPreds (l : List (GReg × Word)) (ps : Word) : State := (withRegs l).setPreds ps

/-- A part of the next state, if there is one. -/
def after {α : Type} (r : Result) (f : State → α) : Option α :=
  match r with
  | .next t => some (f t)
  | _ => none

/-- Why there is no next state, if the spec gives none. -/
def refusalOf (r : Result) : Option Refusal :=
  match r with
  | .refused why => some why
  | _ => none

/-- A register in the next state. -/
def regIn (r : Result) (q : GReg) : Option Word := after r (fun t => t.reg q)

/-- A predicate in the next state. -/
def predIn (r : Result) (p : PReg) : Option Bool := after r (fun t => t.pred p)

/-- r2 and r3 hold operands. -/
abbrev operands (a b : Word) : State := withRegs [(2, a), (3, b)]

theorem test_alu_sums :
    regIn (exec (.add always 1 2 3) (operands 0x7FFFFFFF 1)) 1 = some 0x80000000 ∧
    regIn (exec (.sub always 1 2 3) (operands 0 1)) 1 = some 0xFFFFFFFF ∧
    regIn (exec (.shadd always 1 2 3) (operands 0xC0000001 0x10)) 1 = some 0x80000012 ∧
    regIn (exec (.shadd2 always 1 2 3) (operands 0x40000003 0xFFFFFFFC)) 1 = some 8 := by decide

theorem test_alu_shifts :
    regIn (exec (.sl always 1 2 3) (operands 1 0x20)) 1 = some 1 ∧
    regIn (exec (.sl always 1 2 3) (operands 1 0xFFFFFFFF)) 1 = some 0x80000000 ∧
    regIn (exec (.sr always 1 2 3) (operands 0x80000000 0x21)) 1 = some 0x40000000 ∧
    regIn (exec (.sra always 1 2 3) (operands 0xF0000000 4)) 1 = some 0xFF000000 := by decide

theorem test_alu_logic :
    regIn (exec (.xor always 1 2 2) (operands 0xDEADBEEF 0)) 1 = some 0 ∧
    regIn (exec (.or always 1 2 3) (operands 0xF0F00000 0x0FF0000F)) 1 = some 0xFFF0000F ∧
    regIn (exec (.and always 1 2 3) (operands 0xF0F00000 0x0FF0000F)) 1 = some 0x00F00000 ∧
    regIn (exec (.nor always 1 2 3) (operands 0xF0F00000 0x0FF0000F)) 1 = some 0x000FFFF0 := by decide

theorem test_alu_r0_and_same_register :
    regIn (exec (.add always 0 2 3) (operands 5 7)) 0 = some 0 ∧
    regIn (exec (.add always 1 1 1) (withRegs [(1, 0x40000001)])) 1 = some 0x80000002 := by decide

theorem test_alu_immediate :
    regIn (exec (.addi always 1 2 4095) (operands 0xFFFFF001 0)) 1 = some 0 ∧
    regIn (exec (.subi always 1 2 4095) (operands 0 0)) 1 = some 0xFFFFF001 ∧
    regIn (exec (.xori always 1 2 4095) (operands 0xFFFFFFFF 0)) 1 = some 0xFFFFF000 ∧
    regIn (exec (.sli always 1 2 33) (operands 1 0)) 1 = some 2 ∧
    regIn (exec (.sri always 1 2 4) (operands 0xF000000F 0)) 1 = some 0x0F000000 ∧
    regIn (exec (.srai always 1 2 4) (operands 0xF000000F 0)) 1 = some 0xFF000000 ∧
    regIn (exec (.ori always 1 2 0x800) (operands 0 0)) 1 = some 0x800 ∧
    regIn (exec (.andi always 1 2 0xFF) (operands 0x12345678 0)) 1 = some 0x78 := by decide

/-- `xorl`, `sll`, `srl`, `sral`, `orl` have no row in 95_test_vectors: worked out from 40_alu R194 to R198. -/
theorem test_alu_long :
    regIn (exec (.addl always 1 2 0xFFFFFFFF) (operands 1 0)) 1 = some 0 ∧
    regIn (exec (.subl always 1 2 0x80000000) (operands 0 0)) 1 = some 0x80000000 ∧
    regIn (exec (.xorl always 1 2 0xFFFF0000) (operands 0x12345678 0)) 1 = some 0xEDCB5678 ∧
    regIn (exec (.sll always 1 2 0x21) (operands 0x80000001 0)) 1 = some 2 ∧
    regIn (exec (.srl always 1 2 4) (operands 0xF000000F 0)) 1 = some 0x0F000000 ∧
    regIn (exec (.sral always 1 2 4) (operands 0xF000000F 0)) 1 = some 0xFF000000 ∧
    regIn (exec (.orl always 1 2 0xFFFF0000) (operands 0x12345678 0)) 1 = some 0xFFFF5678 ∧
    regIn (exec (.andl always 1 2 0xFFFF0000) (operands 0x12345678 0)) 1 = some 0x12340000 ∧
    regIn (exec (.norl always 1 0 0) (operands 0 0)) 1 = some 0xFFFFFFFF ∧
    regIn (exec (.shaddl always 1 2 0xFFFFFFFE) (operands 1 0)) 1 = some 0 ∧
    regIn (exec (.shadd2l always 1 2 1) (operands 0x40000000 0)) 1 = some 1 := by decide

theorem test_disabled_writes_nothing :
    regIn (exec (.addl ⟨false, 1⟩ 1 2 5) (withRegs [(1, 0x77), (2, 1)])) 1 = some 0x77 := by decide

/-- The low and high product registers in the next state. -/
abbrev product (r : Result) : Option (Word × Word) := after r (fun t => (t.sp.sl, t.sp.sh))

theorem test_multiply :
    product (exec (.mul always 2 3) (operands 0xFFFFFFFF 2)) = some (0xFFFFFFFE, 0xFFFFFFFF) ∧
    product (exec (.mul always 2 3) (operands 0x80000000 0x80000000)) = some (0, 0x40000000) ∧
    product (exec (.mulu always 2 3) (operands 0xFFFFFFFF 2)) = some (0xFFFFFFFE, 1) ∧
    product (exec (.mulu always 2 3) (operands 0x80000000 0xFFFFFFFF)) = some (0x80000000, 0x7FFFFFFF) := by decide

theorem test_compare_registers :
    predIn (exec (.cmpeq always 1 2 3) (operands 5 5)) 1 = some true ∧
    predIn (exec (.cmpneq always 1 2 3) (operands 5 5)) 1 = some false ∧
    predIn (exec (.cmplt always 1 2 3) (operands 0xFFFFFFFF 1)) 1 = some true ∧
    predIn (exec (.cmplt always 1 2 3) (operands 5 5)) 1 = some false ∧
    predIn (exec (.cmple always 1 2 3) (operands 5 5)) 1 = some true ∧
    predIn (exec (.cmple always 1 2 3) (operands 1 0xFFFFFFFF)) 1 = some false ∧
    predIn (exec (.cmpult always 1 2 3) (operands 0xFFFFFFFF 1)) 1 = some false ∧
    predIn (exec (.cmpule always 1 2 3) (operands 1 0xFFFFFFFF)) 1 = some true := by decide

theorem test_btest :
    predIn (exec (.btest always 1 2 3) (operands 0x80000000 31)) 1 = some true ∧
    refusalOf (exec (.btest always 1 2 3) (operands 0xFFFFFFFF 32)) = some .bitIndex := by decide

theorem test_compare_immediates :
    predIn (exec (.cmpeqi always 1 2 31) (operands 31 0)) 1 = some true ∧
    predIn (exec (.cmpneqi always 1 2 0) (operands 0 0)) 1 = some false ∧
    predIn (exec (.cmplti always 1 2 1) (operands 0xFFFFFFFF 0)) 1 = some true ∧
    predIn (exec (.cmplei always 1 2 31) (operands 31 0)) 1 = some true ∧
    predIn (exec (.cmpulti always 1 2 1) (operands 0xFFFFFFFF 0)) 1 = some false ∧
    predIn (exec (.cmpulei always 1 2 0) (operands 0 0)) 1 = some true ∧
    predIn (exec (.btesti always 1 2 31) (operands 0x7FFFFFFF 0)) 1 = some false ∧
    predIn (exec (.btesti always 1 2 0) (operands 0x7FFFFFFF 0)) 1 = some true := by decide

theorem test_compare_p0 : predIn (exec (.cmpeq always 0 2 3) (operands 1 2)) 0 = some true := by decide

theorem test_predicate_combine :
    predIn (exec (.por always 1 ⟨true, 2⟩ ⟨false, 3⟩) (withPreds [] 0)) 1 = some true ∧
    predIn (exec (.pand always 1 ⟨false, 2⟩ ⟨false, 3⟩) (withPreds [] 4)) 1 = some false ∧
    predIn (exec (.pxor always 1 ⟨false, 1⟩ ⟨false, 0⟩) (withPreds [] 2)) 1 = some false ∧
    predIn (exec (.pand always 0 never never) (withPreds [] 0)) 0 = some true := by decide

theorem test_bcopy :
    regIn (exec (.bcopy always 1 2 0 ⟨false, 3⟩) (withPreds [(2, 0xFFFFFFFE)] 8)) 1 = some 0xFFFFFFFF ∧
    regIn (exec (.bcopy always 1 2 31 ⟨false, 3⟩) (withPreds [(2, 0xFFFFFFFF)] 0)) 1 = some 0x7FFFFFFF := by decide

theorem test_mts :
    after (exec (.mts always 0 1) (withRegs [(1, 0xFFFFFF54)])) (fun t => t.special 0) = some 0x55 ∧
    after (exec (.mts always 5 1) (withRegs [(1, 0x001FFFF0)])) (fun t => (t.sp.ss, t.sp.st)) =
      some (0x001FFFF0, 0) := by decide

theorem test_mfs :
    regIn (exec (.mfs always 1 0) (withPreds [] 0x82)) 1 = some 0x83 ∧
    refusalOf (exec (.mfs always 1 15) State.reset) = some .unnamedSpecial := by decide

/-! ### Loads and stores -/

/-- The bytes of the test vectors at 0x1000 in global memory, at 0x108 in the data scratchpad, and at 0x1ffff8 in the
stack cache, whose window is 0x1ffff8 to 0x200000; r2 holds the base address. -/
def loadState (base : Word) : State :=
  { withRegs [(2, base)] with
    sp := { State.reset.sp with ss := 0x200000, st := 0x1FFFF8 }
    sc := [(2044, 0x85), (2045, 0x66), (2046, 0x77), (2047, 0x88)]
    mem := { State.reset.mem with
      gm := [(0x1000, 0x88), (0x1001, 0x99), (0x1002, 0xAA), (0x1003, 0xBB), (0x1004, 0x7F), (0x1005, 0x80),
             (0x1006, 0xFF), (0x1007, 1)]
      dspm := [(0x108, 0xA1), (0x109, 0xB2), (0x10a, 0xC3), (0x10b, 0xD4)] } }

theorem test_load_words :
    regIn (exec (.lwc always 1 2 1) (loadState 0x1000)) 1 = some 0x7F80FF01 ∧
    regIn (exec (.lwm always 1 2 0) (loadState 0x1000)) 1 = some 0x8899AABB ∧
    regIn (exec (.lwl always 1 2 2) (loadState 0x100)) 1 = some 0xA1B2C3D4 ∧
    regIn (exec (.lws always 1 0 1) (loadState 0)) 1 = some 0x85667788 ∧
    refusalOf (exec (.lwc always 1 2 1) (loadState 0xFFFFFFFE)) = some .misaligned := by decide

/-- `lhs`, `lhul`, `lhus` have no row in 95_test_vectors: worked out from 46_load R289, R298, R297. -/
theorem test_load_halves :
    regIn (exec (.lhc always 1 2 1) (loadState 0x1000)) 1 = some 0xFFFFAABB ∧
    regIn (exec (.lhm always 1 2 3) (loadState 0x1000)) 1 = some 0xFFFFFF01 ∧
    regIn (exec (.lhl always 1 2 1) (loadState 0x108)) 1 = some 0xFFFFC3D4 ∧
    regIn (exec (.lhs always 1 0 2) (loadState 0)) 1 = some 0xFFFF8566 ∧
    regIn (exec (.lhuc always 1 2 0) (loadState 0x1000)) 1 = some 0x8899 ∧
    regIn (exec (.lhum always 1 2 1) (loadState 0x1000)) 1 = some 0xAABB ∧
    regIn (exec (.lhul always 1 2 0) (loadState 0x108)) 1 = some 0xA1B2 ∧
    regIn (exec (.lhus always 1 0 3) (loadState 0)) 1 = some 0x7788 := by decide

/-- `lbl`, `lbus` have no row in 95_test_vectors: worked out from 46_load R294, R301. -/
theorem test_load_bytes :
    regIn (exec (.lbc always 1 2 3) (loadState 0x1000)) 1 = some 0xFFFFFFBB ∧
    regIn (exec (.lbm always 1 2 4) (loadState 0x1000)) 1 = some 0x7F ∧
    regIn (exec (.lbl always 1 2 0) (loadState 0x108)) 1 = some 0xFFFFFFA1 ∧
    regIn (exec (.lbs always 1 2 0) (loadState 4)) 1 = some 0xFFFFFF85 ∧
    regIn (exec (.lbuc always 1 2 6) (loadState 0x1000)) 1 = some 0xFF ∧
    regIn (exec (.lbum always 1 2 7) (loadState 0x1000)) 1 = some 1 ∧
    regIn (exec (.lbul always 1 2 3) (loadState 0x108)) 1 = some 0xD4 ∧
    regIn (exec (.lbus always 1 2 0) (loadState 4)) 1 = some 0x85 := by decide

/-- The word of global memory at an address in the next state. -/
def gmIn (r : Result) (a : Nat) : Option Word := after r (fun t => t.mem.gm.readWord (span a 4))

/-- The word of the data scratchpad at an address in the next state. -/
def dspmIn (r : Result) (a : Nat) : Option Word := after r (fun t => t.mem.dspm.readWord (span a 4))

/-- The word of the stack cache at an index in the next state. -/
def scIn (r : Result) (a : Nat) : Option Word := after r (fun t => t.sc.readWord (span a 4))

/-- `loadState` with a value in r3. -/
abbrev storeState (base v : Word) : State := (loadState base).setReg 3 v

theorem test_store_words :
    gmIn (exec (.swc always 2 3 0) (storeState 0x1000 0x11223344)) 0x1000 = some 0x11223344 ∧
    gmIn (exec (.swm always 2 0 0) (storeState 0x1000 0x11223344)) 0x1000 = some 0 ∧
    dspmIn (exec (.swl always 2 3 1) (storeState 0x100 0xA5A5A5A5)) 0x104 = some 0xA5A5A5A5 ∧
    scIn (exec (.sws always 0 3 1) (storeState 0 0xCAFEF00D)) 2044 = some 0xCAFEF00D ∧
    gmIn (exec (.swc never 2 3 0) (storeState 0x1000 1)) 0x1000 = some 0x8899AABB := by decide

/-- `shs` in the window has no row in 95_test_vectors: worked out from 47_store R318. -/
theorem test_store_halves :
    gmIn (exec (.shc always 2 3 0) (storeState 0x1000 0x11223344)) 0x1000 = some 0x3344AABB ∧
    gmIn (exec (.shm always 2 3 1) (storeState 0x1000 0x11223344)) 0x1000 = some 0x88993344 ∧
    dspmIn (exec (.shl always 2 3 1) (storeState 0x108 0x0001FFFF)) 0x108 = some 0xA1B2FFFF ∧
    scIn (exec (.shs always 0 3 3) (storeState 0 0x11223344)) 2044 = some 0x85663344 ∧
    refusalOf (exec (.shs always 0 3 4) (storeState 0 0xEE)) = some .stackWindow := by decide

theorem test_store_bytes :
    gmIn (exec (.sbc always 2 3 1) (storeState 0x1000 0x11223344)) 0x1000 = some 0x8844AABB ∧
    gmIn (exec (.sbm always 2 3 2) (storeState 0x1000 0x11223344)) 0x1000 = some 0x889944BB ∧
    dspmIn (exec (.sbl always 2 3 1) (storeState 0x108 0x1FF)) 0x108 = some 0xA1FFC3D4 ∧
    scIn (exec (.sbs always 0 3 7) (storeState 0 0xEE)) 2044 = some 0x856677EE := by decide

/-! ### Stack control -/

/-- The stack pointers, with the given words at 0x1ffff8 in the stack cache and 0xAAAA0001 0xAAAA0002 there in global
memory. -/
def stackState (ss st : Word) (n : Word) : State :=
  { withRegs [(1, n)] with
    cfg := { Config.default with memSize := 0x400000 }
    sp := { State.reset.sp with ss := ss, st := st }
    sc := [(2040, 0x44), (2041, 0x44), (2042, 0x44), (2043, 0x44), (2044, 0x55), (2045, 0x55), (2046, 0x55),
           (2047, 0x55)]
    mem := { State.reset.mem with
      gm := [(0x1ffff8, 0xAA), (0x1ffff9, 0xAA), (0x1ffffb, 1), (0x1ffffc, 0xAA), (0x1ffffd, 0xAA), (0x1fffff, 2)] } }

/-- `ss` and `st` in the next state. -/
abbrev pointers (r : Result) : Option (Word × Word) := after r (fun t => (t.sp.ss, t.sp.st))

theorem test_sres :
    pointers (exec (.sres always 512) (stackState 0x200000 0x200000 0)) = some (0x200000, 0x1FF800) ∧
    pointers (exec (.sres always 512) (stackState 0x200000 0x1FFFF8 0)) = some (0x1FFFF8, 0x1FF7F8) ∧
    gmIn (exec (.sres always 512) (stackState 0x200000 0x1FFFF8 0)) 0x1ffffc = some 0x55555555 ∧
    refusalOf (exec (.sres always 513) (stackState 0x200000 0x200000 0)) = some .stackSize := by decide

theorem test_sens :
    pointers (exec (.sens always 2) (stackState 0x1FFFF8 0x1FFFF8 0)) = some (0x200000, 0x1FFFF8) ∧
    scIn (exec (.sens always 2) (stackState 0x1FFFF8 0x1FFFF8 0)) 2040 = some 0xAAAA0001 ∧
    scIn (exec (.sensR always 1) (stackState 0x1FFFF8 0x1FFFF8 8)) 2044 = some 0xAAAA0002 ∧
    refusalOf (exec (.sensR always 1) (stackState 0x1FFFF8 0x1FFFF8 6)) = some .stackSize := by decide

theorem test_sfree :
    pointers (exec (.sfree always 2) (stackState 0x200000 0x1FFFF8 0)) = some (0x200000, 0x200000) ∧
    pointers (exec (.sfree always 4) (stackState 0x1FFFFC 0x1FFFF8 0)) = some (0x200008, 0x200008) := by decide

theorem test_sspill :
    pointers (exec (.sspill always 1) (stackState 0x200000 0x1FFFF8 0)) = some (0x1FFFFC, 0x1FFFF8) ∧
    gmIn (exec (.sspill always 1) (stackState 0x200000 0x1FFFF8 0)) 0x1ffffc = some 0x55555555 ∧
    gmIn (exec (.sspillR always 1) (stackState 0x200000 0x1FFFF8 8)) 0x1ffff8 = some 0x44444444 ∧
    refusalOf (exec (.sspill always 3) (stackState 0x200000 0x1FFFF8 0)) = some .stackSize := by decide

/-! ### Control flow -/

/-- At 0x20010 in the block at 0x20004, with blocks of 0x100 bytes at 0x20400 and 0x20800, and r5, r6, the return
registers and the status as given. -/
def codeState (r5 r6 b off status : Word) : State :=
  { withRegs [(5, r5), (6, r6)] with
    sp := { State.reset.sp with srb := b, sro := off, sxb := b, sxo := off }
    pc := 0x20010
    base := 0x20004
    nextPc := 0x20014
    blockSize := some 0x400
    exc := { State.reset.exc with status := status, vec := (Vector.replicate 32 0).set 8 0x20800 }
    mem := { State.reset.mem with gm := [(0x20002, 4), (0x203fe, 1), (0x207fe, 1)] } }

/-- Where the next state goes on, in which block, and its return registers. -/
abbrev goes (r : Result) : Option (Word × Word × Word × Word) :=
  after r (fun t => (t.nextPc, t.base, t.sp.srb, t.sp.sro))

/-- The transfer that the next state has pending: delay slots left, target, base. -/
abbrev waits (r : Result) : Option (Option (Nat × Word × Word)) :=
  after r (fun t => t.pending.map (fun p => (p.remaining, p.target, p.base)))

theorem test_callnd :
    goes (exec (.callnd always 0x8100) (codeState 0 0 0 0 2)) = some (0x20400, 0x20400, 0x20004, 0x10) ∧
    goes (exec (.callndR always 5) (codeState 0x20400 0 0 0 2)) = some (0x20400, 0x20400, 0x20004, 0x10) ∧
    refusalOf (exec (.callndR always 5) (codeState 0x20402 0 0 0 2)) = some .misalignedTarget := by decide

theorem test_brnd :
    goes (exec (.brnd always (-2)) (codeState 0 0 0 0 2)) = some (0x20008, 0x20004, 0, 0) ∧
    goes (exec (.brndR always 5) (codeState 0x20030 0 0 0 2)) = some (0x20030, 0x20004, 0, 0) ∧
    refusalOf (exec (.brnd always 0x1FFFFF) (codeState 0 0 0 0 2)) = some .outsideBlock := by decide

theorem test_brcfnd :
    goes (exec (.brcfnd always 0x8200) (codeState 0 0 0x11 0x22 2)) = some (0x20800, 0x20800, 0x11, 0x22) ∧
    goes (exec (.brcfndR always 5 6) (codeState 0x20800 0x10 0 0 2)) = some (0x20810, 0x20800, 0, 0) := by decide

theorem test_retnd :
    goes (exec (.retnd always) (codeState 0 0 0x20400 0x1C 2)) = some (0x2041C, 0x20400, 0x20400, 0x1C) := by decide

theorem test_xretnd :
    goes (exec (.xretnd always) (codeState 0 0 0x20400 0x40 0xE)) = some (0x20440, 0x20400, 0x20400, 0x40) ∧
    after (exec (.xretnd always) (codeState 0 0 0x20400 0x40 0x80000002)) (fun t => t.exc.status) =
      some 0x20000000 := by decide

/-- The delayed forms, worked out from 49_control_flow R361 to R375 (95_test_vectors 2.11 S1, S3 for `br`, `call`). -/
theorem test_delayed :
    waits (exec (.call always 0x8100) (codeState 0 0 0 0 2)) = some (some (3, 0x20400, 0x20400)) ∧
    waits (exec (.callR always 5) (codeState 0x20400 0 0 0 2)) = some (some (3, 0x20400, 0x20400)) ∧
    waits (exec (.br always 4) (codeState 0 0 0 0 2)) = some (some (2, 0x20020, 0x20004)) ∧
    waits (exec (.brR always 5) (codeState 0x20030 0 0 0 2)) = some (some (2, 0x20030, 0x20004)) := by decide

/-- The other delayed forms. -/
theorem test_delayed_more :
    waits (exec (.brcf always 0x8200) (codeState 0 0 0 0 2)) = some (some (3, 0x20800, 0x20800)) ∧
    waits (exec (.brcfR always 5 6) (codeState 0x20800 0x10 0 0 2)) = some (some (3, 0x20810, 0x20800)) ∧
    waits (exec (.ret always) (codeState 0 0 0x20400 0x1C 2)) = some (some (3, 0x2041C, 0x20400)) ∧
    waits (exec (.xret always) (codeState 0 0 0x20400 0x40 2)) = some (some (3, 0x20440, 0x20400)) := by decide

theorem test_trap :
    after (exec (.trap always 8) (codeState 0 0 0 0 3))
      (fun t => (t.pc, t.base, t.sp.sxb, t.sp.sxo, t.exc.status, t.exc.source)) =
        some (0x20800, 0x20800, 0x20004, 0x10, 0xE, 8) ∧
    refusalOf (exec (.trap always 32) (codeState 0 0 0 0 3)) = some .trapNumber := by decide

/-! ### Whole steps -/

/-- `codeState` with a word of code at 0x20010, and registers. -/
def running (w : Word) (l : List (GReg × Word)) : State :=
  (l.foldl (fun s p => s.setReg p.1 p.2) (codeState 0 0 0 0 3)).placeBytes 0x20010 (bytesOf 4 w)

/-- `shadd r1 = r2, r3` of 95_test_vectors 2.1, fetched and executed. -/
theorem test_step_shadd :
    after (step (running 0x0202218C [(2, 0xC0000001), (3, 0x10)])) (fun t => (t.reg 1, t.pc)) =
      some (0x80000012, 0x20014) := by decide

/-- The load of 95_test_vectors 2.12 E6, from 0x80000000; its vector, 1, is set here. -/
def faulting : State :=
  { running 0x02822100 [(1, 0x77), (2, 0x80000000)] with
    exc := { State.reset.exc with status := 3, vec := (Vector.replicate 32 0).set 1 0x20400 } }

theorem test_step_fault :
    after (step faulting) (fun t => [t.reg 1, t.sp.sxb, t.sp.sxo, t.exc.status, t.exc.source, t.pc, t.base]) =
      some [0x77, 0x20004, 0xC, 0xE, 1, 0x20400, 0x20400] := by decide

/-- 95_test_vectors 2.12 E1: interrupts 0 and 1 both requested. -/
theorem test_step_interrupt :
    after (step { running 0x0202218C [] with
        exc := { State.reset.exc with status := 3, mask := 0xFFFFFFFF, pend := 0x00030000
                                      vec := (Vector.replicate 32 0).set 16 0x20800 } })
      (fun t => (t.sp.sxo, t.exc.status, t.exc.source, t.pc, t.base)) =
      some (0xC, 0xE, 16, 0x20800, 0x20800) := by decide

/-- `running` in user mode, with an MMU whose segment 0 lets it execute `n` bytes from 0; the handlers of exceptions 0
and 1 are at 0x20800 and 0x20400. -/
def fenced (w n : Word) : State :=
  { running w [] with
    cfg := { Config.default with hasMmu := true }
    mmu := { segBase := Vector.replicate 8 0, segConf := (Vector.replicate 8 0).set 0 (0x20000000 ||| n) }
    exc := { State.reset.exc with
      status := 1, vec := ((Vector.replicate 32 0).set 0 0x20800).set 1 0x20400 } }

/-- 20_memory R101, R102 and 60_exceptions R402 c: a denied fetch is exception 1, but beside an illegal first word the
denied fetch of the second is exception 0. -/
theorem test_step_denied_fetch :
    after (step (fenced 0x0202218C 0x20010)) (fun t => (t.exc.source, t.pc, t.sp.sxo)) = some (1, 0x20400, 0xC) ∧
    after (step (fenced 0x8202218C 0x20014)) (fun t => (t.exc.source, t.pc, t.sp.sxo)) = some (1, 0x20400, 0xC) ∧
    after (step (fenced 0x83C00000 0x20014)) (fun t => (t.exc.source, t.pc, t.sp.sxo)) = some (0, 0x20800, 0xC) := by
  decide

/-- The same before the block at 0x20004, now of 0x40 bytes, was entered. -/
def unsettled (s : State) : State :=
  { s with blockSize := none, mem := { s.mem with gm := (s.mem.gm.write 0x20002 0).write 0x20003 0x40 } }

/-- A block that was not entered is entered at the fetch (20_memory R83 a); where the MMU denies its size word that is
exception 1 (20_memory R102, 60_exceptions R413). -/
theorem test_step_entry_block :
    after (step (unsettled (running 0x0202218C []))) (fun t => (t.pc, t.blockSize)) = some (0x20014, some 0x40) ∧
    after (step (unsettled (fenced 0x0202218C 0x20000))) (fun t => (t.exc.source, t.pc)) =
      some (1, 0x20400) := by decide

/-- 49_control_flow R354: the size word of the block at 0x20000 is read from global memory, at 0x1fffc. -/
theorem test_block_at_external_start :
    (match ({ State.reset with mem := { State.reset.mem with gm := [(0x1ffff, 8)] } } : State).enterBlock 0x20000 0x20004
      with
      | .entered u => u.blockSize
      | _ => none) = some 8 := by decide

/-- 20_memory R85 a, R101: a block of 8 bytes at 0x1ffffffc, with its size word in segment 0, at 0x1000 in memory, its
first word there at 0x1004 and its second in segment 1, at 0x5000. The fill makes the invalidated bytes of both words
visible, and no others. -/
theorem test_fill_across_segments :
    (match ({ State.reset with
        cfg := { Config.default with hasMmu := true }
        mmu := { segBase := ((Vector.replicate 8 0).set 0 0xE0001008).set 1 0x5000, segConf := Vector.replicate 8 0 }
        mem := { State.reset.mem with gm := [(0x1003, 8)] }
        marks := { State.reset.marks with icStale := [(0x1004, 2), (0x1008, 2), (0x5003, 2), (0x5004, 2)] } }
          : State).enterBlock 0x1ffffffc 0x20000000 with
      | .entered u => u.marks.icStale
      | _ => []) = [(0x1008, 2), (0x5004, 2)] := by decide

/-- 60_exceptions R439: the exception unit at another offset. -/
theorem test_device_elsewhere :
    after (exec (.lwl always 1 2 0) { loadState 0xF0050000 with
        cfg := { Config.default with devices := { Config.defaultDevices with excUnit := 5 } } }) (fun t => t.reg 1) =
      some 2 := by decide

/-- 95_test_vectors 2.11 S4: the loaded register is read in the load delay slot. -/
theorem test_step_load_delay :
    refusalOf (step { running 0x02061000 [] with loadShadow := some 1 }) = some .loadDelay := by decide

/-! ### A state that meets the hypotheses of each statement, clause by clause, at the edges of their ranges -/

theorem exists_next {r : Result} {P : State → Prop} [∀ s, Decidable (P s)]
    (h : after r (fun t => decide (P t)) = some true) : ∃ t, r = .next t ∧ P t := by
  cases r with
  | next t => exact ⟨t, rfl, of_decide_eq_true (Option.some.inj h)⟩
  | fault e => cases h
  | refused why => cases h

theorem exists_entered {e : Entry} (h : (match e with | .entered _ => true | _ => false) = true) :
    ∃ u, e = .entered u := by
  cases e with
  | entered u => exact ⟨u, rfl⟩
  | fault => cases h
  | refuse why => cases h

/-- User mode with interrupts enabled. -/
abbrev inUserMode (s : State) : State := { s with exc := { s.exc with status := 1 } }

/-- A configuration with an MMU, and its segment 0 readable and writable only, of 16 bytes from 0x100000. -/
abbrev withMmu (s : State) : State :=
  { s with cfg := { s.cfg with hasMmu := true }
           mmu := { segBase := (Vector.replicate 8 0).set 0 0x100000
                    segConf := (Vector.replicate 8 0).set 0 0xC0000010 } }

/-- A transfer is pending. -/
abbrev awaiting (s : State) (k : TransferKind) (n : Nat) (target base : Word) : State :=
  { s with pending := some ⟨n, target, base, k⟩ }

theorem witness_DecodeFollowsOpcodeTable :
    (decode 0x02022180 0 = .ok (.add always 1 2 3) ∧
      0x02022180 &&& (Instr.add always 1 2 3).row.2 = (Instr.add always 1 2 3).row.1) ∧
    (decode 0x87C2200D 5 = .ok (.shadd2l always 1 2 5) ∧
      0x87C2200D &&& (Instr.shadd2l always 1 2 5).row.2 = (Instr.shadd2l always 1 2 5).row.1) :=
  ⟨⟨rfl, rfl⟩, ⟨rfl, rfl⟩⟩

theorem witness_IllegalEncodings :
    (illegalWord 0x03C00000 ∧ State.reset.ps (guardOf 0x03C00000) = true) ∧
    (illegalWord 0x43C00000 ∧ State.reset.ps (guardOf 0x43C00000) = false) ∧
    (State.reset.cfg.dualIssue = true ∧
      (∀ f, formatOf 0x02022180 = some f → State.reset.cfg.allowsSecond f = true) ∧
      illegalWord 0x83C00000 ∧ State.reset.ps (guardOf 0x83C00000) = true) ∧
    (∀ f, formatOf 0x03C00000 = some f → State.reset.cfg.allowsSecond f = true) := by
  refine ⟨⟨Or.inl (Or.inr (Or.inr (Or.inl rfl))), rfl⟩, ⟨Or.inl (Or.inr (Or.inr (Or.inl rfl))), rfl⟩,
    ⟨rfl, ?_, Or.inl (Or.inr (Or.inr (Or.inl rfl))), rfl⟩, ?_⟩
  · intro f h
    cases (show some Format.aluR = some f from h)
    rfl
  · intro f h
    cases (show none = some f from h)

theorem witness_DisabledInstructionChangesNothing : State.reset.ps (Instr.trap never 40).guard = false := rfl

theorem witness_RegistersAndPredicatesFrame :
    (∃ t, exec (.add always 1 2 3) (operands 5 7) = .next t ∧ (Instr.add always 1 2 3).destReg ≠ some 2 ∧
      (Instr.add always 1 2 3).destPred ≠ some 1 ∧ (Instr.add always 1 2 3).destSpecial ≠ some 0) ∧
    (∃ t, execPair (.addi always 1 0 1) (.cmpeq always 1 2 3) (operands 5 7) = .next t ∧
      (Instr.cmpeq always 1 2 3).destReg ≠ some 2 ∧ (Instr.cmpeq always 1 2 3).destPred ≠ some 2) :=
  ⟨exists_next (by decide), exists_next (by decide)⟩

theorem witness_MemoryFrame :
    (∃ t, exec (.lwc always 1 2 1) (loadState 0x1000) = .next t ∧ (Instr.lwc always 1 2 1).format ≠ .stt ∧
      (Instr.lwc always 1 2 1).format ≠ .stcI ∧ (Instr.lwc always 1 2 1).format ≠ .stcR) ∧
    (∃ t, exec (.callnd always 0x8100) (codeState 0 0 0 0 2) = .next t ∧
      (Instr.callnd always 0x8100).format ≠ .stt ∧ (Instr.callnd always 0x8100).format ≠ .stcI ∧
      (Instr.callnd always 0x8100).format ≠ .stcR) := ⟨exists_next (by decide), exists_next (by decide)⟩

theorem witness_SpecialAndControlFrame :
    (∃ t, exec (.swc always 2 3 0) (storeState 0x1000 1) = .next t ∧ t.excEntered = false ∧
      (Instr.swc always 2 3 0).format ≠ .aluM ∧ (Instr.swc always 2 3 0).format ≠ .spcT ∧
      (Instr.swc always 2 3 0).format ≠ .stcI ∧ (Instr.swc always 2 3 0).format ≠ .stcR ∧
      ¬ (Instr.swc always 2 3 0).transfers ∧ (Instr.swc always 2 3 0).format ≠ .ldt) ∧
    (∃ t, exec (.retnd always) (codeState 0 0 0x20400 0x1C 2) = .next t ∧ t.excEntered = false ∧
      (Instr.retnd always).format ≠ .aluM ∧ (Instr.retnd always).format ≠ .spcT ∧
      (Instr.retnd always).format ≠ .stcI ∧ (Instr.retnd always).format ≠ .stcR ∧
      (Instr.retnd always).isCallnd = false) ∧
    (∃ t, exec (.mul always 2 3) (operands 5 7) = .next t ∧ t.excEntered = false ∧
      (Instr.mul always 2 3).format = .aluM) ∧
    (∃ t, exec (.sfree always 2) (stackState 0x200000 0x1FFFF8 0) = .next t ∧ t.excEntered = false ∧
      (Instr.sfree always 2).format = .stcI) ∧
    (∃ t, exec (.callnd always 0x8100) (codeState 0 0 0 0 2) = .next t ∧ t.excEntered = false ∧
      (Instr.callnd always 0x8100).format ≠ .ldt ∧ (Instr.callnd always 0x8100).format ≠ .stt ∧
      (Instr.callnd always 0x8100).format ≠ .aluM ∧ (Instr.callnd always 0x8100).isXret = false ∧
      (Instr.callnd always 0x8100).isCallnd = true) :=
  ⟨exists_next (by decide), exists_next (by decide), exists_next (by decide), exists_next (by decide),
    exists_next (by decide)⟩

theorem witness_UserModeCannotConfigure :
    (inUserMode (operands 1 2)).userMode = true ∧
    (∃ t, exec (.add always 1 2 3) (inUserMode (operands 1 2)) = .next t ∧ t.excEntered = false ∧
      (Instr.add always 1 2 3).isXret = false) ∧
    (∃ t, exec (.lwl always 1 2 0) (inUserMode (loadState 0xF0010000)) = .next t ∧ t.excEntered = false ∧
      (Instr.lwl always 1 2 0).isXret = false) := ⟨rfl, exists_next (by decide), exists_next (by decide)⟩

theorem witness_StepKeepsConfigurationAndRoms :
    ∃ t, step (running 0x0202218C [(2, 1), (3, 2)]) = .next t ∧ t.reg 1 = 4 := exists_next (by decide)

theorem witness_AluRegisterResults : (operands 0x80000000 32).ready always [2, 3, 1] := by decide

theorem witness_AluImmediateResults : (operands 0x80000000 0).ready always [2, 1] := by decide

theorem witness_AluLongResults : (operands 0x80000000 0).ready ⟨true, 1⟩ [2, 1] := by decide

theorem witness_MultiplyResults : (operands 0x80000000 0xFFFFFFFF).ready always [2, 3] := by decide

theorem witness_CompareRegisterResults :
    (operands 1 31).ready always [2, 3] ∧ ((operands 1 31).reg 3).toNat < 32 ∧
    (operands 1 32).ready always [2, 3] ∧ 32 ≤ ((operands 1 32).reg 3).toNat := by decide

theorem witness_CompareImmediateResults : (operands 0xFFFFFFFF 0).ready always [2] := by decide

theorem witness_PredicateCombineAndBitcopyResults :
    (withPreds [] 4).ps ⟨false, 2⟩ = true ∧ (withPreds [(2, 1)] 8).ready always [2, 1] := by decide

theorem witness_PredicatesAsSpecialRegister : (withPreds [(1, 0xFF)] 0x82).ready always [1] := by decide

theorem witness_SpecialMoves :
    (withRegs [(1, 5)]).ready always [1] ∧ (withRegs [(1, 5)]).mulShadow = 0 ∧ (withRegs [(1, 5)]).pending = none ∧
    (awaiting (withRegs [(1, 5)]) .br 2 0 0).ready always [1] ∧
    ({ withRegs [(1, 5)] with cfg := { Config.default with plainSpecials := true } } : State).cfg.plainSpecials = true ∧
    ({ withRegs [(1, 5)] with mulShadow := 1 } : State).mulShadow ≠ 0 ∧
    (withRegs [(1, 5)]).cfg.plainSpecials = false ∧
    (∃ p, (awaiting (withRegs [(1, 5)]) .call 3 0 0).pending = some p ∧ p.kind = .call) ∧
    (∃ p, (awaiting (withRegs [(1, 5)]) .ret 3 0 0).pending = some p ∧ p.kind = .ret) ∧
    (∃ p, (awaiting (withRegs [(1, 5)]) .xret 3 0 0).pending = some p ∧ p.kind = .xret) :=
  ⟨by decide, rfl, rfl, by decide, rfl, by decide, rfl, ⟨_, rfl, rfl⟩, ⟨_, rfl, rfl⟩, ⟨_, rfl, rfl⟩⟩

theorem witness_LoadStackCache :
    (loadState 6).ready always [2, 1] ∧ (loadState 6).stackReady = true ∧ (loadState 6).occupancy = 8 ∧
    (∃ at_ : Nat → Byte, ∀ k, at_ k =
      (loadState 6).sc.read (((loadState 6).sp.st + 6 + BitVec.ofNat 32 k).toNat % (loadState 6).cfg.scSize)) ∧
    (effective ((loadState 4).reg 2) .word 0 = 4 ∧ 4 % 4 = 0 ∧ 4 + 4 ≤ (loadState 4).occupancy) ∧
    (effective ((loadState 6).reg 2) .half 0 = 6 ∧ 6 % 2 = 0 ∧ 6 + 2 ≤ (loadState 6).occupancy) ∧
    (effective ((loadState 6).reg 2) .byte 1 = 7 ∧ 7 + 1 ≤ (loadState 6).occupancy) :=
  ⟨by decide, by decide, by decide, ⟨_, fun _ => rfl⟩, by decide, by decide, by decide⟩

theorem witness_LoadScratchpad :
    (loadState 0x7F8).ready always [2, 1] ∧
    (∃ at_ : Nat → Byte, ∀ k, at_ k = (loadState 0x7F8).mem.dspm.read (0x7FC + k)) ∧
    (effective ((loadState 0x7F8).reg 2) .word 1 = 0x7FC ∧ 0x7FC % 4 = 0 ∧ 0x7FC + 4 ≤ (loadState 0).cfg.dspmSize) ∧
    (effective ((loadState 0x7F8).reg 2) .half 3 = 0x7FE ∧ 0x7FE % 2 = 0 ∧ 0x7FE + 2 ≤ (loadState 0).cfg.dspmSize) ∧
    (effective ((loadState 0x7F8).reg 2) .byte 7 = 0x7FF ∧ 0x7FF + 1 ≤ (loadState 0).cfg.dspmSize) :=
  ⟨by decide, ⟨_, fun _ => rfl⟩, by decide, by decide, by decide⟩

theorem witness_LoadGlobal :
    (loadState 0x1FF000).ready always [2, 1] ∧ (loadState 0x1FF000).exc.localMode = false ∧
    (∃ at_ : Nat → Byte, ∀ k, at_ k = (loadState 0x1FF000).mem.gm.read (0x1FF1FC + k)) ∧
    (effective ((loadState 0x1FF000).reg 2) .word 0x7F = 0x1FF1FC ∧ (0x1FF1FC : Word).toNat % 4 = 0 ∧
      (loadState 0x1FF000).reaches .read 0x1FF1FC 4 0x1FF1FC ∧
      (loadState 0x1FF000).aliasesStack 0x1FF1FC 4 = false) ∧
    (effective ((operands 0x1FFFFE 0).reg 2) .half 0 = 0x1FFFFE ∧ (operands 0x1FFFFE 0).reaches .read 0x1FFFFE 2 0x1FFFFE ∧
      (operands 0x1FFFFE 0).aliasesStack 0x1FFFFE 2 = false) ∧
    (effective ((operands 0x1FFFFE 0).reg 2) .byte 1 = 0x1FFFFF ∧ (operands 0x1FFFFE 0).reaches .read 0x1FFFFF 1 0x1FFFFF ∧
      (operands 0x1FFFFE 0).aliasesStack 0x1FFFFF 1 = false) ∧
    (withMmu (inUserMode (operands 0xC 0))).reaches .read 0xC 4 0x10000C ∧
    (∀ k, (loadState 0x1FF000).marks.dcDirty.read (0x1FF1FC + k) = 0) ∧
    (∀ k, (loadState 0x1FF000).marks.dcStale.read (0x1FF1FC + k) = 0) :=
  ⟨by decide, rfl, ⟨_, fun _ => rfl⟩, ⟨rfl, rfl, ⟨_, rfl, by decide, by decide, by decide⟩, by decide⟩,
    ⟨rfl, ⟨_, rfl, by decide, by decide, by decide⟩, by decide⟩,
    ⟨rfl, ⟨_, rfl, by decide, by decide, by decide⟩, by decide⟩, ⟨_, rfl, by decide, by decide, by decide⟩,
    fun _ => rfl, fun _ => rfl⟩

theorem witness_StoreStackCache :
    (storeState 6 9).ready always [2, 3] ∧ (storeState 6 9).stackReady = true ∧
    (∃ addr : Nat → Nat, ∀ k, addr k =
      ((storeState 6 9).sp.st + 6 + BitVec.ofNat 32 k).toNat % (storeState 6 9).cfg.scSize) ∧
    (effective ((storeState 4 9).reg 2) .word 0 = 4 ∧ 4 % 4 = 0 ∧ 4 + 4 ≤ (storeState 4 9).occupancy) ∧
    (effective ((storeState 6 9).reg 2) .half 0 = 6 ∧ 6 % 2 = 0 ∧ 6 + 2 ≤ (storeState 6 9).occupancy) ∧
    (effective ((storeState 6 9).reg 2) .byte 1 = 7 ∧ 7 + 1 ≤ (storeState 6 9).occupancy) :=
  ⟨by decide, by decide, ⟨_, fun _ => rfl⟩, by decide, by decide, by decide⟩

theorem witness_StoreScratchpads :
    (storeState 0x7F8 9).ready always [2, 3] ∧
    (effective ((storeState 0x7F8 9).reg 2) .word 1 = 0x7FC ∧ 0x7FC % 4 = 0 ∧ 0x7FC < 0x10000 ∧
      0x7FC + 4 ≤ (storeState 0x7F8 9).cfg.dspmSize) ∧
    (effective ((storeState 0x10000 9).reg 2) .half 0 = 0x10000 ∧ 0x10000 ≤ (0x10000 : Word).toNat ∧
      (0x10000 : Word).toNat < 0x20000 ∧ 0x10000 - 0x10000 + 2 ≤ (storeState 0 9).cfg.ispmSize) ∧
    (effective ((storeState 0x1FFFC 9).reg 2) .byte 3 = 0x1FFFF ∧ (0x1FFFF : Word).toNat < 0x20000 ∧
      0x1FFFF - 0x10000 + 1 ≤ (storeState 0 9).cfg.ispmSize) := by decide

theorem witness_StoreGlobal :
    (operands 0x1FFFFC 9).ready always [2, 3] ∧ (operands 0x1FFFFC 9).exc.localMode = false ∧
    (effective ((operands 0x1FFFFC 9).reg 2) .word 0 = 0x1FFFFC ∧ (0x1FFFFC : Word).toNat % 4 = 0 ∧
      (operands 0x1FFFFC 9).reaches .write 0x1FFFFC 4 0x1FFFFC ∧
      (operands 0x1FFFFC 9).aliasesStack 0x1FFFFC 4 = false) ∧
    (effective ((operands 0x1FFFFC 9).reg 2) .half 1 = 0x1FFFFE ∧
      (operands 0x1FFFFC 9).reaches .write 0x1FFFFE 2 0x1FFFFE ∧
      (operands 0x1FFFFC 9).aliasesStack 0x1FFFFE 2 = false) ∧
    (effective ((operands 0x1FFFFC 9).reg 2) .byte 3 = 0x1FFFFF ∧
      (operands 0x1FFFFC 9).reaches .write 0x1FFFFF 1 0x1FFFFF ∧
      (operands 0x1FFFFC 9).aliasesStack 0x1FFFFF 1 = false) :=
  ⟨by decide, rfl, ⟨rfl, rfl, ⟨_, rfl, by decide, by decide, by decide⟩, by decide⟩,
    ⟨rfl, ⟨_, rfl, by decide, by decide, by decide⟩, by decide⟩,
    ⟨rfl, ⟨_, rfl, by decide, by decide, by decide⟩, by decide⟩⟩

theorem witness_StoreThenLoadGlobal :
    (storeState 0x1000 9).ps always = true ∧ (storeState 0x1000 9).exc.localMode = false ∧
    (storeState 0x1000 9).translate .read 0x1004 = (storeState 0x1000 9).translate .write 0x1004 ∧
    effective ((storeState 0x1000 9).reg 2) .word 1 = 0x1004 ∧
    (∃ t, exec (.swc always 2 3 1) (storeState 0x1000 9) = .next t ∧ t.ready always [2, 1] ∧ t.excEntered = false) ∧
    (∃ t, exec (.swm always 2 3 1) (storeState 0x1000 9) = .next t ∧ t.ready always [2, 1] ∧ t.excEntered = false) ∧
    (∀ a, (storeState 0x1000 9).marks.dcDirty.read a = 0) :=
  ⟨rfl, rfl, rfl, rfl, exists_next (by decide), exists_next (by decide), fun _ => rfl⟩

theorem witness_LocalModeRedirects :
    ({ State.reset with exc := { State.reset.exc with localMode := true } } : State).exc.localMode = true := rfl

theorem witness_MemoryOperandsChecked :
    (operands 2 0).ready always [2, 1, 3] ∧ (effective ((operands 2 0).reg 2) .word 0).toNat % 4 ≠ 0 ∧
    (operands 1 0).ready always [2, 1, 3] ∧ (effective ((operands 1 0).reg 2) .half 0).toNat % 2 ≠ 0 ∧
    (stackState 2 0 0).ready always [2, 1, 3] ∧ (stackState 2 0 0).sp.ss.toNat % 4 ≠ 0 ∧
    (stackState 0 2 0).sp.st.toNat % 4 ≠ 0 ∧ (stackState 2052 0 0).cfg.scSize < (stackState 2052 0 0).occupancy ∧
    (effective ((stackState 2 0 0).reg 2) .word 0).toNat % Size.word.bytes = 0 ∧
    ((loadState 5).ready always [2, 1, 3] ∧ (loadState 5).stackReady = true ∧ (loadState 5).occupancy = 8 ∧
      (effective ((loadState 4).reg 2) .word 1 = 8 ∧ 8 % Size.word.bytes = 0 ∧ 8 < 8 + Size.word.bytes) ∧
      (effective ((loadState 6).reg 2) .half 1 = 8 ∧ 8 % Size.half.bytes = 0 ∧ 8 < 8 + Size.half.bytes) ∧
      (effective ((loadState 5).reg 2) .byte 3 = 8 ∧ 8 < 8 + Size.byte.bytes)) ∧
    ((stackState 0x200000 0x1FFFF8 6).ready always [2, 3, 1] ∧ (stackState 0x200000 0x1FFFF8 6).stackReady = true ∧
      (stackState 0x200000 0x1FFFF8 6).cfg.scSize < 4 * (513 : BitVec 18).toNat ∧
      (stackState 0x200000 0x1FFFF8 6).occupancy < 4 * (3 : BitVec 18).toNat ∧
      ((stackState 0x200000 0x1FFFF8 6).reg 1).toNat % 4 ≠ 0 ∧
      (stackState 0x200000 0x1FFFF8 2052).cfg.scSize < ((stackState 0x200000 0x1FFFF8 2052).reg 1).toNat ∧
      (stackState 0x200000 0x1FFFF8 12).occupancy < ((stackState 0x200000 0x1FFFF8 12).reg 1).toNat ∧
      (stackState 0xFFFFFFFC 0xFFFFFFF8 0).stackReady = true ∧
      2 ^ 32 ≤ (stackState 0xFFFFFFFC 0xFFFFFFF8 0).sp.st.toNat + 4 * (2 : BitVec 18).toNat) :=
  ⟨by decide, by decide, by decide, by decide, by decide, by decide, by decide, by decide, by decide, by decide, by decide⟩

theorem witness_UnmappedAccessRaises :
    (State.reset.cfg.hasMmu = false ∧ (withMmu State.reset).cfg.hasMmu = true ∧
      (withMmu State.reset).userMode = false ∧ (withMmu (inUserMode State.reset)).userMode = true ∧
      ((0xF : Word).toNat = (0 : Fin 8).val * 2 ^ 29 + 0xF ∧
        0xF < (withMmu State.reset).mmu.segConf[(0 : Fin 8)].toNat % 2 ^ 29 ∧
        (withMmu State.reset).mmu.segConf[(0 : Fin 8)].getLsbD 31 = true) ∧
      (withMmu State.reset).mmu.segConf[(0 : Fin 8)].toNat % 2 ^ 29 ≤ 0x10 ∧
      (withMmu State.reset).mmu.segConf[(0 : Fin 8)].getLsbD 29 = false ∧
      (0xFFFFFFFF : Word).toNat = (7 : Fin 8).val * 2 ^ 29 + (2 ^ 29 - 1)) ∧
    (operands 0x20000 0).ready always [2, 1, 3] ∧ effective ((operands 0x20000 0).reg 2) .word 0 = 0x20000 ∧
    (operands 0x20000 0).localUnmapped 0x20000 ∧ (operands 0xDFFFFFFE 0).localUnmapped 0xDFFFFFFE ∧
    (operands 0xE0000000 0).localUnmapped 0xE0000000 ∧ (operands 0xEFFFFFFF 0).localUnmapped 0xEFFFFFFF ∧
    (operands 0xF0030000 0).localUnmapped 0xF0030000 ∧ (operands 0xF0100000 0).localUnmapped 0xF0100000 ∧
    (operands 0x80000000 0).globalUnmapped .read 0x80000000 ∧
    (operands 0xFFFFFFFF 0).globalUnmapped .write 0xFFFFFFFF ∧
    (withMmu (inUserMode (operands 0x10 0))).globalUnmapped .read 0x10 :=
  ⟨by decide, by decide, rfl, by decide, by decide, by decide, by decide, by decide, by decide, Or.inr ⟨_, rfl, by decide⟩,
    Or.inr ⟨_, rfl, by decide⟩, Or.inl (by decide)⟩

/-- Privileged, with a device's base address in r2. -/
abbrev device (a : Word) : State := operands a 7

theorem witness_ExceptionUnitRegisters :
    (device 0xF0010000).ready always [2, 1, 3] ∧ (device 0xF0010000).xretPending = false ∧
    (device 0xF0010000).userMode = false ∧ (inUserMode (device 0xF0010000)).ready always [2, 1, 3] ∧
    (∀ n ∈ [(0 : BitVec 7), 1, 2, 3, 4, 5], (device 0xF0010000).registerAt .excUnit (4 * n.toNat)
      (effective ((device 0xF0010000).reg 2) .word n)) ∧
    (device 0xF0010000).registerAt .excUnit (0x80 + 4 * (0 : Fin 32).val)
      (effective ((device 0xF0010000).reg 2) .word 32) ∧
    (device 0xF0010000).registerAt .excUnit (0x80 + 4 * (31 : Fin 32).val)
      (effective ((device 0xF0010000).reg 2) .word 63) :=
  ⟨by decide, rfl, rfl, by decide, fun n h => ⟨1, rfl, by revert n; decide⟩, ⟨1, rfl, rfl⟩, ⟨1, rfl, rfl⟩⟩

theorem witness_UserStoreToProtectedRegisters :
    (inUserMode (device 0xF0010000)).ready always [2, 3] ∧ (inUserMode (device 0xF0010000)).userMode = true ∧
    (inUserMode (device 0xF0010000)).registerAt .excUnit 0 (effective ((device 0xF0010000).reg 2) .word 0) ∧
    (inUserMode (device 0xF0010000)).registerAt .excUnit 0xFC (effective ((device 0xF0010000).reg 2) .word 63) ∧
    (inUserMode (device 0xF0010000)).xretPending = false ∧
    (withMmu (inUserMode (device 0xF0070000))).ready always [2, 3] ∧
    (withMmu (inUserMode (device 0xF0070000))).registerAt .mmu 0 (effective ((device 0xF0070000).reg 2) .word 0) ∧
    (withMmu (inUserMode (device 0xF0070000))).registerAt .mmu 0x3C
      (effective ((device 0xF0070000).reg 2) .word 15) :=
  ⟨by decide, rfl, ⟨1, rfl, rfl⟩, ⟨1, rfl, rfl⟩, rfl, by decide, ⟨7, rfl, rfl⟩, ⟨7, rfl, rfl⟩⟩

/-- Every described device is present, the optional ones the default leaves out at offsets 3, 11 and 14. The timer has
its latch and its held low word both of the cycle counter; both UARTs have a byte received and seen. -/
def busyDevices (a : Word) : State :=
  { device a with
    cfg := { Config.default with
      hasMmu := true
      devices := { Config.defaultDevices with deadline := some 3, counter := some 11, uart2 := some 14 } }
    io := { State.reset.io with
      timer := { State.reset.io.timer with latchOf := some .cycles, heldOf := some .cycles }
      uart := { tx := [], rx := [0x41], readySeen := true, dataSeen := true }
      uart2 := { tx := [], rx := [0x41], readySeen := false, dataSeen := true } } }

theorem witness_DeviceRegisters :
    (device 0xF0020000).ready always [2, 1, 3] ∧ (busyDevices 0xF0080000).ready always [2, 1, 3] ∧
    (∀ n ∈ [(0 : BitVec 7), 1, 2, 3], (device 0xF0020000).registerAt .timer (4 * n.toNat)
      (effective ((device 0xF0020000).reg 2) .word n)) ∧
    (device 0xF0020000).io.timer.latchOf ≠ some .cycles ∧ (device 0xF0020000).io.timer.heldOf ≠ some .cycles ∧
    (busyDevices 0xF0020000).io.timer.latchOf = some .cycles ∧
    (busyDevices 0xF0020000).io.timer.heldOf = some .cycles ∧
    ((busyDevices 0xF0080000).registerAt .uart 0 (effective ((busyDevices 0xF0080000).reg 2) .word 0) ∧
      (busyDevices 0xF0080000).registerAt .uart 4 (effective ((busyDevices 0xF0080000).reg 2) .word 1) ∧
      (busyDevices 0xF00E0000).registerAt .uart2 0 (effective ((busyDevices 0xF00E0000).reg 2) .word 0) ∧
      (busyDevices 0xF00E0000).registerAt .uart2 4 (effective ((busyDevices 0xF00E0000).reg 2) .word 1)) ∧
    ((busyDevices 0xF0080000).io.uart.dataSeen = true ∧ (busyDevices 0xF0080000).io.uart.rx = 0x41 :: [] ∧
      (device 0xF0080000).io.uart.dataSeen = false) ∧
    (device 0xF0090000).registerAt .leds 0 (effective ((device 0xF0090000).reg 2) .word 0) ∧
    (device 0xF00A0000).registerAt .keys 0 (effective ((device 0xF00A0000).reg 2) .word 0) ∧
    (busyDevices 0xF0030000).registerAt .deadline 0 (effective ((busyDevices 0xF0030000).reg 2) .word 0) ∧
    ((busyDevices 0xF00B0000).registerAt .counter 0 (effective ((busyDevices 0xF00B0000).reg 2) .word 0) ∧
      (busyDevices 0xF00B0000).cfg.devices.counterRuns = true) :=
  ⟨by decide, by decide, fun n h => ⟨2, rfl, by revert n; decide⟩, by decide, by decide, rfl, rfl,
    ⟨⟨8, rfl, rfl⟩, ⟨8, rfl, rfl⟩, ⟨14, rfl, rfl⟩, ⟨14, rfl, rfl⟩⟩, ⟨rfl, rfl, rfl⟩, ⟨9, rfl, rfl⟩, ⟨10, rfl, rfl⟩,
    ⟨3, rfl, rfl⟩, ⟨11, rfl, rfl⟩, rfl⟩

theorem witness_ConfigurationRegisters :
    (device 0xF0000000).ready always [2, 1, 3] ∧
    (∀ n ∈ [(0 : BitVec 7), 13], (device 0xF0000000).registerAt .cpuInfo (4 * n.toNat)
      (effective ((device 0xF0000000).reg 2) .word n)) ∧
    ((device 0xF0008FFC).ready always [2, 1, 3] ∧
      (device 0xF0008FFC).registerAt .cpuInfo (0x8000 + 0xFFC) (effective ((device 0xF0008FFC).reg 2) .word 0)) ∧
    ((busyDevices 0xF0070000).ready always [2, 1, 3] ∧ (busyDevices 0xF0070000).userMode = false ∧
      (busyDevices 0xF0070000).registerAt .mmu (8 * (7 : Fin 8).val)
        (effective ((busyDevices 0xF0070000).reg 2) .word 14) ∧
      (busyDevices 0xF0070000).registerAt .mmu (8 * (7 : Fin 8).val + 4)
        (effective ((busyDevices 0xF0070000).reg 2) .word 15)) :=
  ⟨by decide, fun n h => ⟨0, rfl, by revert n; decide⟩, ⟨by decide, ⟨0, rfl, rfl⟩⟩, by decide, rfl, ⟨7, rfl, rfl⟩,
    ⟨7, rfl, rfl⟩⟩

theorem witness_ReserveAndFreeResident :
    (stackState 0xFFFFFFF8 0xFFFFFFF8 0).ps always = true ∧ (stackState 0xFFFFFFF8 0xFFFFFFF8 0).stackReady = true ∧
    (4 : Word) = BitVec.ofNat 32 (4 * (1 : BitVec 18).toNat) ∧
    (stackState 0xFFFFFFF8 0xFFFFFFF8 0).sp.st.toNat + (4 : Word).toNat < 2 ^ 32 ∧
    (2048 : Word) = BitVec.ofNat 32 (4 * (512 : BitVec 18).toNat) ∧
    (stackState 0x200000 0x200000 0).occupancy + (2048 : Word).toNat ≤ (stackState 0x200000 0x200000 0).cfg.scSize := by
  decide

theorem witness_SpillMovesBytes :
    (stackState 0x200000 0x1FFFF8 8).ready always [1] ∧ (stackState 0x200000 0x1FFFF8 8).stackReady = true ∧
    (stackState 0x200000 0x1FFFF8 8).cfg.scSize = 2 ^ 11 ∧ 8 % 4 = 0 ∧
    (∀ j, j < 8 / 4 → (stackState 0x200000 0x1FFFF8 8).reaches .write
      ((stackState 0x200000 0x1FFFF8 8).sp.ss - BitVec.ofNat 32 (4 * (j + 1))) 4 (0x1FFFFC - 4 * j)) ∧
    (∀ i j, i < 8 / 4 → j < 8 / 4 → i ≠ j →
      0x1FFFFC - 4 * i + 4 ≤ 0x1FFFFC - 4 * j ∨ 0x1FFFFC - 4 * j + 4 ≤ 0x1FFFFC - 4 * i) ∧
    (8 ≤ (stackState 0x200000 0x1FFFF8 8).occupancy ∧ 8 = 4 * (2 : BitVec 18).toNat) ∧
    8 = ((stackState 0x200000 0x1FFFF8 8).reg 1).toNat ∧
    (4 * (512 : BitVec 18).toNat ≤ (stackState 0x200000 0x1FFFF8 8).cfg.scSize ∧
      8 = (stackState 0x200000 0x1FFFF8 8).occupancy + 4 * (512 : BitVec 18).toNat -
        (stackState 0x200000 0x1FFFF8 8).cfg.scSize) := by
  refine ⟨by decide, by decide, rfl, rfl, ?_, fun i j hi hj hne => by omega, by decide, by decide, by decide⟩
  intro j h
  match j, h with
  | 0, _ => exact ⟨_, rfl, by decide, by decide, by decide⟩
  | 1, _ => exact ⟨_, rfl, by decide, by decide, by decide⟩

theorem witness_EnsureFillsMissingBytes :
    (stackState 0x1FFFF8 0x1FFFF8 8).ready always [1] ∧ (stackState 0x1FFFF8 0x1FFFF8 8).stackReady = true ∧
    (stackState 0x1FFFF8 0x1FFFF8 8).cfg.scSize = 2 ^ 11 ∧ 8 ≤ (stackState 0x1FFFF8 0x1FFFF8 8).cfg.scSize ∧
    8 = 8 - (stackState 0x1FFFF8 0x1FFFF8 8).occupancy ∧
    (∀ j, j < 8 / 4 → (stackState 0x1FFFF8 0x1FFFF8 8).reaches .read
      ((stackState 0x1FFFF8 0x1FFFF8 8).sp.ss + BitVec.ofNat 32 (4 * j)) 4 (0x1FFFF8 + 4 * j)) ∧
    (∀ a, (stackState 0x1FFFF8 0x1FFFF8 8).marks.dcDirty.read a = 0) ∧
    8 = 4 * (2 : BitVec 18).toNat ∧ 8 = ((stackState 0x1FFFF8 0x1FFFF8 8).reg 1).toNat := by
  refine ⟨by decide, by decide, rfl, by decide, by decide, ?_, fun _ => rfl, by decide, by decide⟩
  intro j h
  match j, h with
  | 0, _ => exact ⟨_, rfl, by decide, by decide, by decide⟩
  | 1, _ => exact ⟨_, rfl, by decide, by decide, by decide⟩

theorem witness_EnterBlock :
    (0x20402 : Word).toNat % 4 ≠ 0 ∧
    (∃ s : State, s.cfg.methodCache = true ∧ (0xFFFC : Word).toNat % 4 = 0 ∧ (0x1FFFC : Word).toNat < 0x20000 ∧
      (0xFFFC : Word).toNat < 0x10000 ∧ 0x10000 ≤ (0x1FFFC : Word).toNat ∧
      (0x1FFFC : Word).toNat - 0x10000 + 4 ≤ s.cfg.ispmSize) ∧
    (∃ s : State, s.cfg.methodCache = false ∧ s.reaches .execute 0x20000 4 0x20000 ∧ s.marks.icStale.wf ∧
      s.marks.icStale.read 5 = 2 ∧ s.cfg.ispmSize < 0x1FFFC - 0x10000 + 4 ∧
      (∃ w, s.translate .execute 0x200000 = some w ∧ s.cfg.memSize < w.toNat + 4)) ∧
    ({ fenced 0 0x20014 with cfg := { Config.default with hasMmu := true, methodCache := false } } : State).translate
      .execute 0x20400 = none ∧
    ((codeState 0 0 0 0 2).cfg.methodCache = true ∧ 0x20000 ≤ (0x20402 : Word).toNat ∧ (0x20402 : Word).toNat % 4 ≠ 0 ∧
      (fenced 0 0x20014).translate .execute (0x20400 - 4) = none ∧
      (∃ w, (codeState 0 0 0 0 2).translate .execute (0x200004 - 4) = some w ∧ 0x200000 < w.toNat + 4)) ∧
    (∃ s : State, s.reaches .execute (0x20004 - 4) 4 0x20000 ∧ s.marks.icStale.read (0x20000 + 3) = 1) ∧
    ((codeState 0 0 0 0 2).reaches .execute (0x20100 - 4) 4 0x200fc ∧
      (0 : Word) = bigWord (fun k => (codeState 0 0 0 0 2).mem.gm.read (0x200fc + k))) ∧
    (let s : State := { State.reset with
        mem := { State.reset.mem with gm := [(0x1ffff, 8)] }
        marks := { State.reset.marks with icStale := [(0x20004, 2), (0x20008, 2)] } };
      s.cfg.methodCache = true ∧ s.reaches .execute (0x20000 - 4) 4 0x1fffc ∧
      (∀ k, k < 4 → s.marks.icStale.read (0x1fffc + k) = 0 ∨ s.marks.icStale.read (0x1fffc + k) = 2) ∧
      (8 : Word) = bigWord (fun k => s.mem.gm.read (0x1fffc + k)) ∧
      (∀ i, i < (8 : Word).toNat / 4 → s.reaches .execute (0x20000 + BitVec.ofNat 32 (4 * i)) 4 (0x20000 + 4 * i)) ∧
      (0x20004 - 0x20000 : Word).toNat < (8 : Word).toNat ∧ (8 : Word).toNat ≤ (0x20008 - 0x20000 : Word).toNat ∧
      s.marks.icStale.wf ∧ s.marks.icStale.read 0x20004 = 2 ∧ s.marks.icStale.read 0x20008 = 2) ∧
    (let s : State := { State.reset with mem := { State.reset.mem with gm := [(0x1ffff7, 12)] } };
      s.reaches .execute (0x1ffff8 - 4) 4 0x1ffff4 ∧
      (12 : Word) = bigWord (fun k => s.mem.gm.read (0x1ffff4 + k)) ∧ 2 < (12 : Word).toNat / 4 ∧
      (∀ j, j < 2 → ∃ pa, s.reaches .execute (0x1ffff8 + BitVec.ofNat 32 (4 * j)) 4 pa) ∧
      (∃ w, s.translate .execute (0x1ffff8 + BitVec.ofNat 32 (4 * 2)) = some w ∧ s.cfg.memSize < w.toNat + 4)) ∧
    (let s : State := { fenced 0 0x2000C with mem := { State.reset.mem with gm := [(0x20003, 12)] } };
      (∀ j, j < 2 → ∃ pa, s.reaches .execute (0x20004 + BitVec.ofNat 32 (4 * j)) 4 pa) ∧
      s.translate .execute (0x20004 + BitVec.ofNat 32 (4 * 2)) = none) := by
  refine ⟨by decide, ⟨State.reset, by decide⟩,
    ⟨{ State.reset with
        cfg := { Config.default with methodCache := false, ispmSize := 0xFFFC }
        marks := { State.reset.marks with icStale := [(5, 2)] } },
      rfl, ⟨_, rfl, by decide, by decide, by decide⟩, by decide, by decide, by decide, ⟨_, rfl, by decide⟩⟩,
    by decide, ⟨rfl, by decide, by decide, by decide, ⟨_, rfl, by decide⟩⟩,
    ⟨{ State.reset with marks := { State.reset.marks with icStale := [(0x20003, 1)] } },
      ⟨_, rfl, by decide, by decide, by decide⟩, by decide⟩,
    ⟨⟨_, rfl, by decide, by decide, by decide⟩, by decide⟩,
    ⟨rfl, ⟨_, rfl, by decide, by decide, by decide⟩, by decide, by decide, fun i hi => ?_, by decide, by decide,
      by decide, by decide, by decide⟩,
    ⟨⟨_, rfl, by decide, by decide, by decide⟩, by decide, by decide, fun j hj => ?_, ⟨_, rfl, by decide⟩⟩,
    ⟨fun j hj => ?_, by decide⟩⟩
  · match i, hi with
    | 0, _ => exact ⟨_, rfl, by decide, by decide, by decide⟩
    | 1, _ => exact ⟨_, rfl, by decide, by decide, by decide⟩
  · match j, hj with
    | 0, _ => exact ⟨_, _, rfl, rfl, by decide, by decide⟩
    | 1, _ => exact ⟨_, _, rfl, rfl, by decide, by decide⟩
  · match j, hj with
    | 0, _ => exact ⟨0x20004, 0x20004, by decide, by decide, by decide, by decide⟩
    | 1, _ => exact ⟨0x20008, 0x20008, by decide, by decide, by decide, by decide⟩

/-- In user mode in the block at 0x20004, with the return registers naming the block at 0x20400, which the MMU denies. -/
def denied : State :=
  { (fenced 0 0x20014).setReg 5 0x20400 with
    sp := { State.reset.sp with srb := 0x20400, sro := 0x1C, sxb := 0x20400, sxo := 0x1C } }

theorem witness_NonDelayedCallsAndReturns :
    (codeState 0x20400 0 0x20400 0x1C 0xE).ready always [5] ∧ (codeState 0x20400 0 0x20400 0x1C 0xE).pending = none ∧
    (∃ u, ({ codeState 0x20400 0 0x20400 0x1C 0xE with
        sp := { (codeState 0x20400 0 0x20400 0x1C 0xE).sp with srb := 0x20004, sro := 0x20014 - 0x20004 } }
          : State).enterBlock 0x20400 0x20400 = .entered u) ∧
    (0x20400 : Word) = BitVec.ofNat 32 (4 * (0x8100 : BitVec 22).toNat) ∧
    0x20400 = (codeState 0x20400 0 0x20400 0x1C 0xE).reg 5 ∧
    (∃ u, (codeState 0x20400 0 0x20400 0x1C 0xE).enterBlock 0x20400 (0x20400 + 0x1C) = .entered u) ∧
    (∃ u, ({ codeState 0x20400 0 0x20400 0x1C 0xE with
        exc := { (codeState 0x20400 0 0x20400 0x1C 0xE).exc with status := 0xE >>> 2 } } : State).enterBlock
          0x20400 (0x20400 + 0x1C) = .entered u) ∧
    ((codeState 0 0 0x20400 2 0xE).enterBlock 0x20400 (0x20400 + 2) = .refuse .misalignedTarget ∧
      (codeState 0 0 0 0 0xE).enterBlock 0x3FFFFC 0x3FFFFC = .refuse .unmappedCode) ∧
    (denied.ready always [5] ∧ denied.pending = none ∧ 0x20400 = denied.reg 5 ∧
      ({ denied with sp := { denied.sp with srb := denied.base, sro := denied.nextPc - denied.base } }
        : State).enterBlock 0x20400 0x20400 = .fault ∧
      denied.enterBlock denied.sp.srb (denied.sp.srb + denied.sp.sro) = .fault ∧
      ({ denied with exc := { denied.exc with status := denied.exc.status >>> 2 } } : State).enterBlock denied.sp.sxb
        (denied.sp.sxb + denied.sp.sxo) = .fault) :=
  ⟨by decide, rfl, exists_entered (by decide), by decide, by decide, exists_entered (by decide),
    exists_entered (by decide), by decide, by decide⟩

theorem witness_NonDelayedBranches :
    ((codeState 0 0 0 0 2).cfg.methodCache = true ∧ (codeState 0 0 0 0 2).blockSize = some 0x400 ∧
      (codeState 0 0 0 0 2).base.toNat + (0x400 : Word).toNat ≤ 2 ^ 32 ∧
      (0x20404 : Word).toNat = (codeState 0 0 0 0 2).base.toNat + (0x400 : Word).toNat ∧
      (0x20000 : Word).toNat < (codeState 0 0 0 0 2).base.toNat ∧
      State.reset.blockSize = none ∧ State.reset.base.toNat < 0x20000 ∧
      ({ State.reset with cfg := { Config.default with methodCache := false } } : State).cfg.methodCache = false) ∧
    (codeState 0x20800 0xFC 0 0 2).ready always [5, 6] ∧ (codeState 0x20800 0xFC 0 0 2).pending = none ∧
    (∃ u, (codeState 0x20800 0xFC 0 0 2).enterBlock 0x20800 0x20800 = .entered u) ∧
    (0x20800 : Word) = BitVec.ofNat 32 (4 * (0x8200 : BitVec 22).toNat) ∧
    (∃ u, (codeState 0x20800 0xFC 0 0 2).enterBlock 0x20800 (0x20800 + 0xFC) = .entered u) ∧
    (0x20800 = (codeState 0x20800 0xFC 0 0 2).reg 5 ∧ 0xFC = (codeState 0x20800 0xFC 0 0 2).reg 6) ∧
    ((0x20802 : Word).toNat % 4 ≠ 0 ∧ 0x20802 = (codeState 0x20802 0xFC 0 0 2).reg 5 ∧
      (codeState 0x20800 0x100 0 0 2).enterBlock 0x20800 (0x20800 + 0x100) = .refuse .outsideBlock ∧
      denied.enterBlock 0x20400 0x20400 = .fault) ∧
    ((0x20400 : Word).toNat % 4 = 0 ∧ (codeState 0x20400 0 0 0 2).leavesBlock 0x20400 = none ∧
      0x20400 = (codeState 0x20400 0 0 0 2).reg 5) ∧
    (0x20004 = (codeState 0 0 0 0 2).pc + BitVec.ofInt 32 (4 * (-3 : BitVec 22).toInt) ∧
      (codeState 0 0 0 0 2).leavesBlock 0x20004 = none) ∧
    (0x20000 = (codeState 0 0 0 0 2).pc + BitVec.ofInt 32 (4 * (-4 : BitVec 22).toInt) ∧
      (codeState 0 0 0 0 2).leavesBlock 0x20000 = some .outsideBlock) :=
  ⟨by decide, by decide, rfl, exists_entered (by decide), by decide, exists_entered (by decide), by decide, by decide,
    by decide, by decide, by decide⟩

theorem witness_DelayedTransfersRecorded :
    (codeState 0x20800 0xFC 0x20400 0x1C 2).ready always [5, 6] ∧ (codeState 0x20800 0xFC 0x20400 0x1C 2).pending = none ∧
    (0x20800 : Word).toNat % 4 = 0 ∧ (0x20800 : Word) = BitVec.ofNat 32 (4 * (0x8200 : BitVec 22).toNat) ∧
    0x20800 = (codeState 0x20800 0xFC 0x20400 0x1C 2).reg 5 ∧ 0xFC = (codeState 0x20800 0xFC 0x20400 0x1C 2).reg 6 ∧
    ((codeState 0x20800 0xFC 0x20400 0x1C 2).sp.srb + (codeState 0x20800 0xFC 0x20400 0x1C 2).sp.sro).toNat % 4 = 0 ∧
    ((codeState 0x20800 0xFC 0x20400 0x1C 2).sp.sxb + (codeState 0x20800 0xFC 0x20400 0x1C 2).sp.sxo).toNat % 4 = 0 ∧
    ((codeState 0x20800 0xFC 0x20400 2 2).sp.srb + (codeState 0x20800 0xFC 0x20400 2 2).sp.sro).toNat % 4 ≠ 0 ∧
    (((codeState 0x20802 2 0 0 2).reg 5).toNat % 4 ≠ 0 ∧
      ((codeState 0x20802 2 0 0 2).reg 5 + (codeState 0x20802 2 0 0 2).reg 6).toNat % 4 = 0) ∧
    (0x20004 = (codeState 0 0 0 0 2).pc + BitVec.ofInt 32 (4 * (-3 : BitVec 22).toInt) ∧
      (codeState 0 0 0 0 2).leavesBlock 0x20004 = none) ∧
    (0x20400 = (codeState 0x20400 0 0 0 2).reg 5 ∧ (codeState 0x20400 0 0 0 2).leavesBlock 0x20400 = none) ∧
    ((0x20402 : Word).toNat % 4 ≠ 0 ∧ 0x20402 = (codeState 0x20402 0 0 0 2).reg 5 ∧
      (codeState 0x20402 0 0 0 2).leavesBlock 0x20402 = none) ∧
    (0x20404 = (codeState 0x20404 0 0 0 2).reg 5 ∧
      (codeState 0x20404 0 0 0 2).leavesBlock 0x20404 = some .outsideBlock) := by decide

theorem witness_ControlFlowInDelaySlotRefused :
    (Instr.trap always 8).transfers ∧ (awaiting (codeState 0 0 0 0 2) .br 1 0x20020 0x20004).ps always = true ∧
    (awaiting (codeState 0 0 0 0 2) .br 1 0x20020 0x20004).pending ≠ none := by decide

theorem witness_BundleEndsInSequence :
    (operands 1 2).excEntered = false ∧ (operands 1 2).pending = none ∧
    (∃ p, (awaiting (operands 1 2) .call 2 0x20400 0x20400).pending = some p ∧ 1 < p.remaining) :=
  ⟨rfl, rfl, ⟨_, rfl, by decide⟩⟩

/-- `codeState` with a transfer to the block at 0x20400 about to happen. -/
abbrev atLast (k : TransferKind) : State := awaiting (codeState 0 0 0 0 0xE) k 1 0x20400 0x20400

theorem witness_DelayedTransferHappens :
    (∃ p, (atLast .call).pending = some p ∧ p.remaining ≤ 1 ∧ p.kind ≠ .br) ∧ (atLast .call).excEntered = false ∧
    (∃ u, ({ atLast .call with
        sp := { (atLast .call).sp with srb := (atLast .call).base, sro := (atLast .call).nextPc - (atLast .call).base }
        loadShadow := none
        mulShadow := 0 } : State).enterBlock 0x20400 0x20400 = .entered u) ∧
    (∃ u, ({ atLast .xret with
        exc := { (atLast .xret).exc with status := (atLast .xret).exc.status >>> 2 }
        loadShadow := none
        mulShadow := 0 } : State).enterBlock 0x20400 0x20400 = .entered u) ∧
    (∃ p, (atLast .br).pending = some p ∧ p.remaining ≤ 1 ∧ p.kind = .br) :=
  ⟨⟨_, rfl, by decide, by decide⟩, rfl, exists_entered (by decide), exists_entered (by decide),
    ⟨_, rfl, by decide, rfl⟩⟩

theorem witness_BundleReadsBeforeItWrites :
    (∃ t, exec (.add always 1 2 3) (operands 1 2) = .next t ∧ t.excEntered = false) ∧
    (∃ u, exec (.sub always 2 3 2) (operands 1 2) = .next u ∧ u.reg 2 = 1) ∧
    (operands 1 2).twoWriters (.add always 1 2 3) (.sub always 2 3 2) = false ∧
    (operands 1 2).ps (Instr.sub always 2 3 2).guard = true ∧ (Instr.sub always 2 3 2).destReg = some 2 ∧
    (∃ u, exec (.cmpeq always 1 2 3) (operands 1 2) = .next u ∧ u.pred 1 = false) ∧
    (operands 1 2).twoWriters (.add always 1 2 3) (.cmpeq always 1 2 3) = false ∧
    (Instr.cmpeq always 1 2 3).destReg = none ∧ (Instr.cmpeq always 1 2 3).destPred = some 1 ∧
    (∃ u, exec (.sub never 1 2 3) (operands 1 2) = .next u ∧ u.reg 1 = 0) ∧
    (operands 1 2).twoWriters (.add always 1 2 3) (.sub never 1 2 3) = false ∧
    (operands 1 2).ps (Instr.sub never 1 2 3).guard = false :=
  ⟨exists_next (by decide), exists_next (by decide), by decide, rfl, rfl, exists_next (by decide), by decide, rfl, rfl,
    exists_next (by decide), by decide, rfl⟩

theorem witness_TwoWritersRefused :
    State.reset.ps always = true ∧
    (∃ r, r ≠ 0 ∧ (Instr.addi always 31 0 1).destReg = some r ∧ (Instr.add always 31 2 3).destReg = some r) ∧
    (∃ p, p ≠ 0 ∧ (Instr.cmpeq always 1 2 3).destPred = some p ∧ (Instr.por always 1 always always).destPred = some p) ∧
    ((Instr.addi always 0 0 1).destReg = some 0 ∧ (Instr.add always 0 2 3).destReg = some 0) ∧
    ((Instr.cmpeq always 0 2 3).destPred = some 0 ∧ (Instr.por always 0 always always).destPred = some 0) :=
  ⟨rfl, ⟨31, by decide, rfl, rfl⟩, ⟨1, by decide, rfl, rfl⟩, ⟨rfl, rfl⟩, ⟨rfl, rfl⟩⟩

/-- `codeState` with every vector at the block at 0x20800. -/
abbrev vectored (status mask pend : Word) : State :=
  { codeState 0 0 0 0 0 with
    exc := { status := status, mask := mask, pend := pend, source := 0, vec := Vector.replicate 32 0x20800
             localMode := false } }

theorem witness_TrapEntersHandler :
    (vectored 3 0 0).ps always = true ∧ (vectored 3 0 0).pending = none ∧
    ((0 : BitVec 22).toNat = (0 : Fin 32).val ∧ (vectored 3 0 0).nextPc = (vectored 3 0 0).pc + 4 ∧
      (vectored 3 0 0).handlerReady 0) ∧
    ((31 : BitVec 22).toNat = (31 : Fin 32).val ∧ (vectored 3 0 0).handlerReady 31) ∧
    32 ≤ (32 : BitVec 22).toNat ∧
    ((31 : BitVec 22).toNat < 32 ∧
      ({ vectored 3 0 0 with nextPc := 0x20018 } : State).nextPc ≠ (vectored 3 0 0).pc + 4) :=
  ⟨rfl, rfl, ⟨rfl, rfl, exists_entered (by decide)⟩, ⟨rfl, exists_entered (by decide)⟩, by decide, by decide⟩

theorem witness_ReturnAddressOfExceptions :
    (∃ t, (vectored 3 0 0).takeInterrupt 15 31 = .next t ∧ t.sp.sxo = 0xC) ∧
    (∃ t, (vectored 3 0 0).raise 1 = .next t ∧ t.sp.sxo = 0xC) ∧
    (∃ t, exec (.trap always 31) (vectored 3 0 0) = .next t ∧ t.sp.sxo = 0x10) ∧
    (vectored 3 0 0).ps always = true :=
  ⟨exists_next (by decide), exists_next (by decide), exists_next (by decide), rfl⟩

theorem witness_FaultsArePrecise :
    (vectored 3 0 0).excEntered = false ∧
    (∃ t, exec (.lwm always 1 2 0) ((vectored 3 0 0).setReg 2 0x80000000) = .next t ∧ t.excEntered = true) ∧
    (∃ t, execPair (.lwm always 1 2 0) (.addi always 3 0 1) ((vectored 3 0 0).setReg 2 0x80000000) = .next t ∧
      t.excEntered = true) ∧
    (awaiting (vectored 3 0 0) .br 1 0x20020 0x20004).pending ≠ none ∧
    (vectored 3 0 0).pending = none ∧ (vectored 3 0 0).handlerReady 0 ∧
    ((fenced 0x83C00000 0x20014).dueInterrupt = none ∧ (fenced 0x83C00000 0x20014).sleeping = false ∧
      (fenced 0x83C00000 0x20014).unentered = false) ∧
    (fenced 0x0202218C 0x20010).fetchWord 0x20010 = .fault ∧
    ((fenced 0x83C00000 0x20014).fetchWord 0x20010 = .word 0x83C00000 ∧ sizeFlag 0x83C00000 = true ∧
      (fenced 0x83C00000 0x20014).fetchWord (0x20010 + 4) = .fault) ∧
    (illegalWord 0x83C00000 ∧ (fenced 0x83C00000 0x20014).ps (guardOf 0x83C00000) = true) ∧
    ((fenced 0x8202218C 0x20014).fetchWord 0x20010 = .word 0x8202218C ∧
      (fenced 0x8202218C 0x20014).fetchWord (0x20010 + 4) = .fault) :=
  ⟨rfl, exists_next (by decide), exists_next (by decide), by decide, rfl, exists_entered (by decide), by decide,
    by decide, by decide, ⟨Or.inl (Or.inr (Or.inr (Or.inl rfl))), rfl⟩, by decide⟩

theorem witness_ReturnsUndoEntries :
    (∃ t, (vectored 0xAAAAAAAB 0 0).takeException 31 0x20014 = .next t ∧ t.exc.status = 0xAAAAAAAE) ∧
    (∃ t, exec (.callnd always 0x8100) (codeState 0 0 0 0 2) = .next t ∧ t.excEntered = false) ∧
    (∃ t, exec (.callndR always 5) (codeState 0x20400 0 0 0 2) = .next t ∧ t.excEntered = false) ∧
    (codeState 0 0 0 0 2).ps always = true ∧
    (∃ p, (atLast .call).pending = some p ∧ p.kind = .call ∧ p.remaining ≤ 1) ∧
    (∃ u, (atLast .call).finish false false (.next (atLast .call)) = .next u ∧ u.sp.sro = 0x10) :=
  ⟨exists_next (by decide), exists_next (by decide), exists_next (by decide), rfl, ⟨_, rfl, rfl, by decide⟩,
    exists_next (by decide)⟩

theorem witness_InterruptSelection :
    (vectored 3 0x80010000 0x80030000).pending = none ∧ (vectored 3 0x80010000 0x80030000).mulShadow = 0 ∧
    (vectored 3 0x80010000 0x80030000).dueInterrupt = some 0 ∧ (vectored 3 0x80000000 0x80030000).dueInterrupt = some 15 ∧
    (vectored 2 0x80010000 0x80030000).dueInterrupt = none ∧ (vectored 3 0x40000000 0x80030000).dueInterrupt = none ∧
    (∃ t, (vectored 3 0x80000000 0x80030000).takeInterrupt 15 31 = .next t ∧ t.exc.source = 31) :=
  ⟨rfl, rfl, by decide, by decide, by decide, by decide, exists_next (by decide)⟩

theorem witness_InterruptsWait :
    (awaiting (vectored 3 0xFFFFFFFF 0xFFFFFFFF) .br 1 0x20020 0x20004).pending ≠ none ∧
    ({ vectored 3 0xFFFFFFFF 0xFFFFFFFF with mulShadow := 1 } : State).mulShadow ≠ 0 ∧
    (vectored 2 0xFFFFFFFF 0xFFFFFFFF).exc.status.getLsbD 0 = false ∧
    ((vectored 3 0 0xFFFFFFFF).dueInterrupt = none ∧ (vectored 3 0 0xFFFFFFFF).sleeping = false) ∧
    ({ vectored 3 0 0 with sleeping := true } : State).dueInterrupt = none := by decide

theorem witness_InterruptStep :
    (vectored 3 0x80000000 0x80030000).dueInterrupt = some 15 ∧
    (vectored 3 0x80000000 0x80030000).handlerReady (Fin.ofNat 32 (16 + (15 : Fin 16).val)) ∧
    (vectored 3 0x00010000 0x80030000).dueInterrupt = some 0 :=
  ⟨by decide, exists_entered (by decide), by decide⟩

/-- A state with an armed cycle time 3 cycles ahead, that is reached in 3 cycles and not in 2; in the default
configuration 3 cycles end no microsecond. -/
theorem witness_TimePasses :
    let s : State := { State.reset with
      io := { State.reset.io with timer := { State.reset.io.timer with cycleTime := some 3 } } }
    (∃ j, 1 ≤ j ∧ j ≤ 3 ∧ s.io.timer.cycleTime = some (s.io.timer.cycles + BitVec.ofNat 64 j)) ∧
    (¬ ∃ j, 1 ≤ j ∧ j ≤ 2 ∧ s.io.timer.cycleTime = some (s.io.timer.cycles + BitVec.ofNat 64 j)) ∧
    (0 = (s.io.timer.usecPhase + 3) / s.cfg.freq) ∧
    (¬ ∃ j, 1 ≤ j ∧ j ≤ 0 ∧ s.io.timer.usecTime = some (s.io.timer.usecs + BitVec.ofNat 64 j)) := by
  refine ⟨⟨3, by decide, by decide, rfl⟩, ?_, by decide, by rintro ⟨j, a, b, -⟩; omega⟩
  rintro ⟨j, a, b, h⟩
  obtain rfl | rfl : j = 1 ∨ j = 2 := by omega
  · exact absurd h (by decide)
  · exact absurd h (by decide)

/-- `codeState` with two words of code at 0x20010. -/
abbrev runningTwo (w v : Word) : State := (running w []).placeBytes 0x20014 (bytesOf 4 v)

theorem witness_StepRunsDecodedInstruction :
    ((codeState 0 0 0 0 2).leavesBlock 0x20404 = some .outsideBlock ∧ State.reset.leavesBlock 0xFFFC = none ∧
      (∃ s : State, s.leavesBlock 0x1FFFC = none ∧ s.cfg.ispmSize = 0xFFFC ∧ s.leavesBlock 0x1FFF8 = none ∧
        s.marks.ispmStale.read (0xFFF4 + 3) ≠ 0 ∧ ∀ k, k < 4 → s.marks.ispmStale.read (0xFFF8 + k) = 0) ∧
      (∃ s : State, s.leavesBlock 0x200000 = none ∧ s.cfg.memSize < (0x200000 : Word).toNat + 4 ∧
        s.reaches .execute 0x1FFFFC 4 0x1FFFFC ∧ s.marks.icStale.read (0x1FFFFC + 3) ≠ 0) ∧
      ((fenced 0 0x20014).leavesBlock 0x20014 = none ∧ (fenced 0 0x20014).translate .execute 0x20014 = none)) ∧
    ((unsettled (running 0x0202218C [])).dueInterrupt = none ∧
      (unsettled (running 0x0202218C [])).unentered = true ∧
      ∃ t, (unsettled (running 0x0202218C [])).enterBlock 0x20004 0x20010 = .entered t) ∧
    ((running 0x0202218C []).dueInterrupt = none ∧ (running 0x0202218C []).sleeping = false ∧
      (running 0x0202218C []).unentered = false ∧
      (running 0x0202218C []).fetchWord (running 0x0202218C []).pc = .word 0x0202218C ∧ sizeFlag 0x0202218C = false) ∧
    decode 0x0202218C 0 = .ok (.shadd always 1 2 3) ∧
    ((runningTwo 0x87C22000 5).fetchWord 0x20010 = .word 0x87C22000 ∧
      (runningTwo 0x87C22000 5).fetchWord (0x20010 + 4) = .word 5) ∧
    (decode 0x87C22000 5 = .ok (.addl always 1 2 5) ∧ (Instr.addl always 1 2 5).format = .aluL) ∧
    ((runningTwo 0x8202218C 0x00840001).fetchWord 0x20010 = .word 0x8202218C ∧
      (runningTwo 0x8202218C 0x00840001).fetchWord (0x20010 + 4) = .word 0x00840001 ∧ sizeFlag 0x8202218C = true) ∧
    (decode 0x8202218C 0 = .ok (.shadd always 1 2 3) ∧ decode 0x00840001 0 = .ok (.xori always 2 0 1)) ∧
    ((runningTwo 0x8202218C 0x00840001).cfg.dualIssue = true ∧
      (runningTwo 0x8202218C 0x00840001).cfg.allowsSecond .aluI = true) ∧
    (formatOf 0x8202218C ≠ some .aluL ∧ formatOf 0x02822180 = some .ldt ∧
      (runningTwo 0x8202218C 0x02822180).fetchWord (0x20010 + 4) = .word 0x02822180 ∧
      (runningTwo 0x8202218C 0x02822180).cfg.allowsSecond .ldt = false) ∧
    ({ runningTwo 0x8202218C 0x02822180 with cfg := { Config.default with dualIssue := false } } : State).cfg.dualIssue =
      false :=
  ⟨⟨by decide, by decide,
      ⟨{ State.reset with
          cfg := { Config.default with ispmSize := 0xFFFC }
          marks := { State.reset.marks with ispmStale := [(0xFFF7, 1)] } }, by decide⟩,
      ⟨{ codeState 0 0 0 0 2 with
          blockSize := some 0x1E0000
          marks := { State.reset.marks with icStale := [(0x1FFFFF, 2)] } },
        by decide, by decide, ⟨_, rfl, by decide, by decide, by decide⟩, by decide⟩, by decide⟩,
    ⟨by decide, by decide, exists_entered (by decide)⟩, by decide, rfl, by decide, ⟨rfl, rfl⟩, by decide, ⟨rfl, rfl⟩,
    by decide, by decide, rfl⟩

theorem witness_InvariantKeptByEveryStep :
    (running 0x0202218C [(2, 1), (3, 2)]).Inv ∧
    (∃ t, step (running 0x0202218C [(2, 1), (3, 2)]) = .next t ∧ t.pc = 0x20014) := by
  refine ⟨⟨?_, by decide, by decide, rfl, ?_, by decide, by decide⟩, exists_next (by decide)⟩
  · refine ⟨?_, ?_, ?_, ?_, ?_, ?_, ?_, ?_, ?_, ?_⟩ <;> decide
  · intro p h
    cases h

end Sys2Proof.Tests
end

section
/-! PROOFS. The destinations of an instruction: the view s0 of the predicates, and two writers of one destination
(10_state R28, R42). -/
namespace Sys2Proof.Machine

/-! ### The special moves, where nothing stands in their way -/

theorem exec_mfs_of_readable {g : PredOp} {rd : GReg} {n : SReg} {s : State} (h : s.ready g [rd])
    (free : s.specialUnreadable n = none) : exec (.mfs g rd n) s = .next (s.setReg rd (s.special n)) := by
  obtain ⟨on, unshadowed⟩ := h
  show execMfs g rd n s = _
  rw [execMfs, State.guarded_of_true on, free]
  exact State.put_of_ready (unshadowed rd (by simp)) _

theorem exec_mts_of_writable {g : PredOp} {n : SReg} {rs1 : GReg} {s : State} (h : s.ready g [rs1])
    (free : s.specialUnwritable n = none) : exec (.mts g n rs1) s = .next (s.setSpecial n (s.reg rs1)) := by
  obtain ⟨on, unshadowed⟩ := h
  show execMts g n rs1 s = _
  rw [execMts, State.guarded_of_true on, State.use_of_ready (unshadowed rs1 (by simp)), free]

/-! ### s0 as read -/

theorem State.getLsbD_predWord (s : State) (p : PReg) : s.predWord.getLsbD p.val = s.pred p := by
  simp only [State.predWord, BitVec.getLsbD_setWidth, BitVec.getLsbD_append, BitVec.getLsbD_ofBool]
  match p with
  | 0 | 1 | 2 | 3 | 4 | 5 | 6 | 7 => rfl

theorem State.getLsbD_predWord_of_ge (s : State) {k : Nat} (h : 8 ≤ k) : s.predWord.getLsbD k = false := by
  rw [State.predWord, BitVec.getLsbD_setWidth, BitVec.getLsbD_of_ge _ _ h, Bool.and_false]

/-- Settles O20: nothing but the guard and the load delay stands in the way of a move of s0, and what is moved is
`predWord` or taken in by `setPreds`. -/
theorem predicatesAsSpecialRegister : Obligations.PredicatesAsSpecialRegister := by
  unfold Obligations.PredicatesAsSpecialRegister
  refine ⟨fun g rd s h => ?_, fun g rs1 s h => ?_⟩
  · exact ⟨s.predWord, exec_mfs_of_readable h rfl, s.getLsbD_predWord, fun _ => s.getLsbD_predWord_of_ge⟩
  · refine ⟨s.setPreds (s.reg rs1), exec_mts_of_writable h rfl, fun p hp => ?_, rfl⟩
    rw [State.pred_setPreds, if_neg hp]

/-! ### One instruction, one destination -/

theorem Instr.destPred_destSpecial_of_destReg {i : Instr} {r : GReg} (h : i.destReg = some r) :
    i.destPred = none ∧ i.destSpecial = none := by
  cases i <;> cases h <;> exact ⟨rfl, rfl⟩

theorem Instr.destReg_destSpecial_of_destPred {i : Instr} {p : PReg} (h : i.destPred = some p) :
    i.destReg = none ∧ i.destSpecial = none := by
  cases i <;> cases h <;> exact ⟨rfl, rfl⟩

theorem Instr.sharesDestination_of_destReg {i j : Instr} {r : GReg} (hr : r ≠ 0) (hi : i.destReg = some r)
    (hj : j.destReg = some r) : i.sharesDestination j = true := by
  simp [Instr.sharesDestination, hi, hj, hr]

theorem Instr.sharesDestination_of_destPred {i j : Instr} {p : PReg} (hp : p ≠ 0) (hi : i.destPred = some p)
    (hj : j.destPred = some p) : i.sharesDestination j = true := by
  simp [Instr.sharesDestination, hi, hj, hp]

theorem State.twoWriters_of_sharesDestination {s : State} {i j : Instr} (hi : s.ps i.guard = true)
    (hj : s.ps j.guard = true) (h : i.sharesDestination j = true) : s.twoWriters i j = true := by
  simp [State.twoWriters, State.enables, hi, hj, h]

/-- A first instruction that writes r0 conflicts with no second: it has no other destination. -/
theorem State.twoWriters_of_destReg_zero (s : State) {i : Instr} (j : Instr) (h : i.destReg = some 0) :
    s.twoWriters i j = false := by
  obtain ⟨noPred, noSpecial⟩ := Instr.destPred_destSpecial_of_destReg h
  simp [State.twoWriters, Instr.sharesDestination, h, noPred, noSpecial]

/-- A first instruction that writes p0 conflicts with no second: it has no other destination. -/
theorem State.twoWriters_of_destPred_zero (s : State) {i : Instr} (j : Instr) (h : i.destPred = some 0) :
    s.twoWriters i j = false := by
  obtain ⟨noReg, noSpecial⟩ := Instr.destReg_destSpecial_of_destPred h
  simp [State.twoWriters, Instr.sharesDestination, h, noReg, noSpecial]

/-! ### Only a bundle is refused for two writers: the shapes of a meaning -/

theorem State.guarded_ne_twoWriters {s : State} {g : PredOp} {k : Result} (hk : k ≠ .refused .twoWriters) :
    s.guarded g k ≠ .refused .twoWriters := by
  unfold State.guarded
  split
  · exact hk
  · simp

theorem need_ne_twoWriters {ok : Bool} {why : Refusal} {k : Result} (hw : why ≠ .twoWriters)
    (hk : k ≠ .refused .twoWriters) : need ok why k ≠ .refused .twoWriters := by
  unfold need
  split
  · exact hk
  · simpa using hw

theorem State.use_ne_twoWriters {s : State} {r : GReg} {k : Word → Result} (hk : ∀ v, k v ≠ .refused .twoWriters) :
    s.use r k ≠ .refused .twoWriters :=
  need_ne_twoWriters (by decide) (hk _)

theorem State.put_ne_twoWriters (s : State) (r : GReg) (v : Word) : s.put r v ≠ .refused .twoWriters :=
  need_ne_twoWriters (by decide) (by simp)

/-! ### Only a bundle is refused for two writers: entering a handler -/

theorem State.codePlaces_ne_twoWriters (s : State) (as : List Word) : s.codePlaces as ≠ .refuse .twoWriters := by
  induction as with
  | nil => simp [State.codePlaces]
  | cons a as ih =>
    unfold State.codePlaces
    split
    · simp
    · split
      · simp
      · split
        · simp
        · exact ih

theorem State.externalWord_ne_twoWriters (s : State) (fill : Bool) (a : Word) :
    s.externalWord fill a ≠ .refuse .twoWriters := by
  unfold State.externalWord
  split
  case h_1 => simp
  case h_2 why h =>
    rintro ⟨⟩
    exact s.codePlaces_ne_twoWriters _ h
  case h_3 => simp only; split <;> simp

theorem State.blockSizeAt_ne_twoWriters (s : State) (b : Word) : s.blockSizeAt b ≠ .refuse .twoWriters := by
  unfold State.blockSizeAt
  split
  · simp
  · split
    · split <;> simp
    · exact s.externalWord_ne_twoWriters true (b - 4)

theorem State.enterBlock_ne_twoWriters (s : State) (b t : Word) : s.enterBlock b t ≠ .refuse .twoWriters := by
  have size := s.blockSizeAt_ne_twoWriters b
  unfold State.enterBlock
  split
  · simp
  · split
    · split
      · simp
      · rename_i why h
        rintro ⟨⟩
        exact size h
      · rename_i n _
        have words := s.codePlaces_ne_twoWriters (blockWords b n)
        split
        · simp
        · rename_i why h
          rintro ⟨⟩
          exact words h
        · split <;> simp
    · split
      · simp
      · split <;> simp

theorem State.takeException_ne_twoWriters (s : State) (n : Fin 32) (ret : Word) :
    s.takeException n ret ≠ .refused .twoWriters := by
  unfold State.takeException
  simp only
  split
  · simp
  · simp
  · rename_i why h
    rintro ⟨⟩
    exact State.enterBlock_ne_twoWriters _ _ _ h

theorem State.illegalAccess_ne_twoWriters (s : State) : s.illegalAccess ≠ .refused .twoWriters :=
  need_ne_twoWriters (by decide) (s.takeException_ne_twoWriters 1 s.pc)

/-! ### Only a bundle is refused for two writers: loading -/

theorem State.loadExc_ne_twoWriters (s : State) (off : Nat) : s.loadExc off ≠ .refuse .twoWriters := by
  unfold State.loadExc
  split
  · simp
  · split
    · simp
    · split <;> simp

theorem State.loadTimerHigh_ne_twoWriters (s : State) (k : TimerCounter) :
    s.loadTimerHigh k ≠ .refuse .twoWriters := by
  unfold State.loadTimerHigh
  split <;> simp

theorem State.loadTimer_ne_twoWriters (s : State) (off : Nat) : s.loadTimer off ≠ .refuse .twoWriters := by
  unfold State.loadTimer
  split
  case h_1 | h_3 => exact s.loadTimerHigh_ne_twoWriters _
  case h_2 | h_4 => simp [State.loadTimerLow]
  case h_5 => simp

theorem State.loadUart_ne_twoWriters (s : State) (port : Bool) (off : Nat) :
    s.loadUart port off ≠ .refuse .twoWriters := by
  unfold State.loadUart
  simp only
  split
  · simp
  · split <;> simp
  · simp

theorem State.loadFree_ne_twoWriters (s : State) (off : Nat) (v : Word) : s.loadFree off v ≠ .refuse .twoWriters := by
  unfold State.loadFree
  split <;> simp

theorem State.loadDevice_ne_twoWriters (s : State) (d : Device) (off : Nat) :
    s.loadDevice d off ≠ .refuse .twoWriters := by
  cases d with
  | cpuInfo =>
    simp only [State.loadDevice, State.loadCpuInfo]
    split
    · simp
    · split <;> simp
  | excUnit => exact s.loadExc_ne_twoWriters off
  | timer => exact s.loadTimer_ne_twoWriters off
  | deadline =>
    simp only [State.loadDevice, State.loadDeadline]
    split <;> simp
  | mmu =>
    simp only [State.loadDevice, State.loadMmu]
    split
    · split <;> simp
    · simp
  | uart => exact s.loadUart_ne_twoWriters false off
  | uart2 => exact s.loadUart_ne_twoWriters true off
  | leds | keys => exact s.loadFree_ne_twoWriters off _
  | counter =>
    simp only [State.loadDevice, State.loadCounter]
    split <;> simp
  | audio | ethMac => simp [State.loadDevice]

theorem State.loadLocal_ne_twoWriters (s : State) (a : Word) (size : Size) :
    s.loadLocal a size ≠ .refuse .twoWriters := by
  unfold State.loadLocal
  split
  case h_1 | h_3 => split <;> simp
  case h_2 | h_5 => simp
  case h_4 =>
    split
    · simp
    · split
      · simp
      · exact s.loadDevice_ne_twoWriters _ _

theorem State.place_ne_twoWriters (s : State) (k : AccessKind) (va : Word) (n : Nat) :
    s.place k va n ≠ .refuse .twoWriters := by
  unfold State.place
  split
  · simp
  · split
    · simp
    · split <;> simp

theorem State.loadGlobal_ne_twoWriters (s : State) (cached : Bool) (va : Word) (size : Size) :
    s.loadGlobal cached va size ≠ .refuse .twoWriters := by
  have place := s.place_ne_twoWriters .read va size.bytes
  unfold State.loadGlobal
  split
  · simp
  · rename_i why h
    rintro ⟨⟩
    exact place h
  · split
    · simp
    · split <;> simp

theorem State.loadSc_ne_twoWriters (s : State) (ea : Word) (n : Nat) : s.loadSc ea n ≠ .refuse .twoWriters := by
  unfold State.loadSc
  split
  · simp
  · split <;> simp

theorem State.loadFrom_ne_twoWriters (s : State) (space : Space) (ea : Word) (size : Size) :
    s.loadFrom space ea size ≠ .refuse .twoWriters := by
  unfold State.loadFrom
  split
  · simp
  · cases space with
    | sc => exact s.loadSc_ne_twoWriters ea size.bytes
    | lm => exact s.loadLocal_ne_twoWriters ea size
    | dc =>
      simp only
      split
      · exact s.loadLocal_ne_twoWriters ea size
      · exact s.loadGlobal_ne_twoWriters true ea size
    | gm => exact s.loadGlobal_ne_twoWriters false ea size

/-! ### Only a bundle is refused for two writers: the instructions with a destination -/

theorem aluRegister_ne_twoWriters (f : Word → Word → Word) (g : PredOp) (rd rs1 rs2 : GReg) (s : State) :
    aluRegister f g rd rs1 rs2 s ≠ .refused .twoWriters :=
  State.guarded_ne_twoWriters
    (State.use_ne_twoWriters fun _ => State.use_ne_twoWriters fun _ => s.put_ne_twoWriters _ _)

theorem aluConstant_ne_twoWriters (f : Word → Word → Word) (g : PredOp) (rd rs1 : GReg) (b : Word) (s : State) :
    aluConstant f g rd rs1 b s ≠ .refused .twoWriters :=
  State.guarded_ne_twoWriters (State.use_ne_twoWriters fun _ => s.put_ne_twoWriters _ _)

theorem compareRegister_ne_twoWriters (f : Word → Word → Bool) (g : PredOp) (pd : PReg) (rs1 rs2 : GReg) (s : State) :
    compareRegister f g pd rs1 rs2 s ≠ .refused .twoWriters :=
  State.guarded_ne_twoWriters (State.use_ne_twoWriters fun _ => State.use_ne_twoWriters fun _ => by simp)

theorem execBtest_ne_twoWriters (g : PredOp) (pd : PReg) (rs1 rs2 : GReg) (s : State) :
    execBtest g pd rs1 rs2 s ≠ .refused .twoWriters :=
  State.guarded_ne_twoWriters (State.use_ne_twoWriters fun _ => State.use_ne_twoWriters fun _ =>
    need_ne_twoWriters (by decide) (by simp))

theorem compareConstant_ne_twoWriters (f : Word → Word → Bool) (g : PredOp) (pd : PReg) (rs1 : GReg) (imm : BitVec 5)
    (s : State) : compareConstant f g pd rs1 imm s ≠ .refused .twoWriters :=
  State.guarded_ne_twoWriters (State.use_ne_twoWriters fun _ => by simp)

theorem combine_ne_twoWriters (f : Bool → Bool → Bool) (g : PredOp) (pd : PReg) (x y : PredOp) (s : State) :
    combine f g pd x y s ≠ .refused .twoWriters :=
  State.guarded_ne_twoWriters (by simp)

theorem execBcopy_ne_twoWriters (g : PredOp) (rd rs1 : GReg) (imm : BitVec 5) (x : PredOp) (s : State) :
    execBcopy g rd rs1 imm x s ≠ .refused .twoWriters :=
  State.guarded_ne_twoWriters (State.use_ne_twoWriters fun _ => s.put_ne_twoWriters _ _)

theorem State.specialUnreadable_ne_twoWriters (s : State) (n : SReg) : s.specialUnreadable n ≠ some .twoWriters := by
  unfold State.specialUnreadable
  split
  case h_1 | h_2 | h_3 | h_4 | h_10 => split <;> simp
  case h_5 | h_6 | h_7 | h_8 | h_9 => simp

theorem execMfs_ne_twoWriters (g : PredOp) (rd : GReg) (n : SReg) (s : State) :
    execMfs g rd n s ≠ .refused .twoWriters := by
  refine State.guarded_ne_twoWriters ?_
  split
  · rename_i why h
    rintro ⟨⟩
    exact s.specialUnreadable_ne_twoWriters n h
  · exact s.put_ne_twoWriters rd _

theorem loadTyped_ne_twoWriters (space : Space) (size : Size) (signed : Bool) (g : PredOp) (rd ra : GReg)
    (imm : BitVec 7) (s : State) : loadTyped space size signed g rd ra imm s ≠ .refused .twoWriters := by
  refine State.guarded_ne_twoWriters (State.use_ne_twoWriters fun b => need_ne_twoWriters (by decide) ?_)
  split
  · simp
  · exact s.illegalAccess_ne_twoWriters
  · rename_i why h
    rintro ⟨⟩
    exact s.loadFrom_ne_twoWriters _ _ _ h

/-- An instruction that names a destination is not refused for two writers by its own meaning, only by a bundle's. -/
theorem exec_ne_twoWriters {i : Instr} (writes : i.destReg ≠ none ∨ i.destPred ≠ none) (s : State) :
    exec i s ≠ .refused .twoWriters := by
  cases i with
  | add | sub | xor | sl | sr | sra | or | and | nor | shadd | shadd2 => exact aluRegister_ne_twoWriters _ _ _ _ _ s
  | addi | subi | xori | sli | sri | srai | ori | andi => exact aluConstant_ne_twoWriters _ _ _ _ _ s
  | addl | subl | xorl | sll | srl | sral | orl | andl | norl | shaddl | shadd2l =>
    exact aluConstant_ne_twoWriters _ _ _ _ _ s
  | cmpeq | cmpneq | cmplt | cmple | cmpult | cmpule => exact compareRegister_ne_twoWriters _ _ _ _ _ s
  | btest => exact execBtest_ne_twoWriters _ _ _ _ s
  | cmpeqi | cmpneqi | cmplti | cmplei | cmpulti | cmpulei | btesti => exact compareConstant_ne_twoWriters _ _ _ _ _ s
  | por | pand | pxor => exact combine_ne_twoWriters _ _ _ _ _ s
  | bcopy => exact execBcopy_ne_twoWriters _ _ _ _ _ s
  | mfs => exact execMfs_ne_twoWriters _ _ _ s
  | lws | lwl | lwc | lwm | lhs | lhl | lhc | lhm | lbs | lbl | lbc | lbm | lhus | lhul | lhuc | lhum | lbus | lbul
  | lbuc | lbum => exact loadTyped_ne_twoWriters _ _ _ _ _ _ _ s
  | mul | mulu | mts | sws | swl | swc | swm | shs | shl | shc | shm | sbs | sbl | sbc | sbm | sres | sens | sfree
  | sspill | sensR | sspillR | callnd | call | brnd | br | brcfnd | brcf | retnd | ret | xretnd | xret | callndR | callR
  | brndR | brR | brcfndR | brcfR | trap => simp [Instr.destReg, Instr.destPred] at writes

/-! ### Two instructions together -/

/-- A bundle whose instructions do not conflict is refused for two writers only if one of them were so by itself. -/
theorem execPair_ne_twoWriters {i j : Instr} {s : State} (compatible : s.twoWriters i j = false)
    (hi : exec i s ≠ .refused .twoWriters) (hj : exec j s ≠ .refused .twoWriters) :
    execPair i j s ≠ .refused .twoWriters := by
  rw [execPair, need_of_true (by simp [compatible])]
  split
  · split
    · simp
    · split
      · simp
      · exact hj
  · exact hi

/-- Settles O47: a shared destination other than r0 and p0 is the conflict that `execPair` refuses before anything else;
a first instruction that writes r0 or p0 is in no conflict, and no instruction with a destination is refused so by
itself. -/
theorem twoWritersRefused : Obligations.TwoWritersRefused := by
  unfold Obligations.TwoWritersRefused
  refine fun i j s oni onj => ⟨fun shared => ?_, fun discarded => ?_⟩
  · have conflict : s.twoWriters i j = true := by
      refine State.twoWriters_of_sharesDestination oni onj ?_
      rcases shared with ⟨r, hr, hi, hj⟩ | ⟨p, hp, hi, hj⟩
      · exact Instr.sharesDestination_of_destReg hr hi hj
      · exact Instr.sharesDestination_of_destPred hp hi hj
    exact need_of_false (by simp [conflict]) _ _
  · rcases discarded with ⟨hi, hj⟩ | ⟨hi, hj⟩
    · exact execPair_ne_twoWriters (s.twoWriters_of_destReg_zero j hi) (exec_ne_twoWriters (.inl (by simp [hi])) s)
        (exec_ne_twoWriters (.inl (by simp [hj])) s)
    · exact execPair_ne_twoWriters (s.twoWriters_of_destPred_zero j hi) (exec_ne_twoWriters (.inr (by simp [hi])) s)
        (exec_ne_twoWriters (.inr (by simp [hj])) s)

end Sys2Proof.Machine
end

section
/-! PROOFS. The illegal encodings: which words each decoder rejects, and what a bundle with such a word does
(30_encoding R125, R150; 60_exceptions R412). -/
namespace Sys2Proof

/-! ### Bit fields -/

theorem bits_lt (w : Word) (lo n : Nat) : bits w lo n < 2 ^ n := Nat.mod_lt _ (Nat.two_pow_pos n)

/-- A field split at its bit `m`: the field above it and the field below. -/
theorem bits_add (w : Word) (lo m n : Nat) : bits w lo (m + n) = bits w lo m + 2 ^ m * bits w (lo + m) n := by
  rw [bits, Nat.pow_add, Nat.mod_mul, Nat.div_div_eq_div_mul, ← Nat.pow_add, bits, bits]

/-! ### What each decoder rejects

A function field is one of the finitely many numbers of its width; a decoder's `match` names the assigned ones. -/

/-- The functions that the list gives as unused in ALUr and in ALUl. -/
def unusedAluFunction (w : Word) : Prop :=
  bits w 0 4 = 8 ∨ bits w 0 4 = 9 ∨ bits w 0 4 = 10 ∨ bits w 0 4 = 14 ∨ bits w 0 4 = 15

theorem decodeAluR_error_iff (w : Word) : (∃ e, decodeAluR w = .error e) ↔ unusedAluFunction w := by
  have range := bits_lt w 0 4
  unfold decodeAluR unusedAluFunction
  split <;> simp at * <;> omega

theorem decodeLongFunction_error_iff (w long : Word) :
    (∃ e, decodeLongFunction w long = .error e) ↔ unusedAluFunction w := by
  have range := bits_lt w 0 4
  unfold decodeLongFunction unusedAluFunction
  split <;> simp at * <;> omega

theorem decodeMultiply_error_iff (w : Word) : (∃ e, decodeMultiply w = .error e) ↔ 2 ≤ bits w 0 4 := by
  unfold decodeMultiply
  split <;> simp at * <;> omega

theorem decodeCompare_error_iff (w : Word) : (∃ e, decodeCompare w = .error e) ↔ 7 ≤ bits w 0 4 := by
  unfold decodeCompare
  split <;> simp at * <;> omega

theorem decodeCompareImm_error_iff (w : Word) : (∃ e, decodeCompareImm w = .error e) ↔ 7 ≤ bits w 0 4 := by
  unfold decodeCompareImm
  split <;> simp at * <;> omega

theorem decodePredicate_error_iff (w : Word) : (∃ e, decodePredicate w = .error e) ↔
    bits w 0 4 ≠ 6 ∧ bits w 0 4 ≠ 7 ∧ bits w 0 4 ≠ 10 := by
  unfold decodePredicate
  split <;> simp at * <;> omega

theorem decodeLoad_error_iff (w : Word) : (∃ e, decodeLoad w = .error e) ↔ 20 ≤ bits w 7 5 := by
  unfold decodeLoad
  split <;> simp at * <;> omega

theorem decodeStore_error_iff (w : Word) : (∃ e, decodeStore w = .error e) ↔ 12 ≤ bits w 17 5 := by
  unfold decodeStore
  split <;> simp at * <;> omega

theorem decodeSpecial_error_iff (w : Word) :
    (∃ e, decodeSpecial w = .error e) ↔ bits w 4 3 ≠ 2 ∧ bits w 4 3 ≠ 3 := by
  unfold decodeSpecial
  split <;> simp at * <;> omega

/-- The decoder selects by the form and `Op` together, the list by each. -/
theorem decodeStack_error_iff (w : Word) : (∃ e, decodeStack w = .error e) ↔
    (bits w 18 2 = 2 ∨ bits w 18 2 = 3) ∨ bits w 18 2 = 1 ∧ (bits w 20 2 = 0 ∨ bits w 20 2 = 2) := by
  have fields : bits w 18 4 = bits w 18 2 + 4 * bits w 20 2 := bits_add w 18 2 2
  have form := bits_lt w 18 2
  have op := bits_lt w 20 2
  unfold decodeStack
  split <;> simp at * <;> omega

/-- `Op` and `d` are the low three bits of the major opcodes 16 to 23. -/
theorem decodeCflI_error_iff (w : Word) : (∃ e, decodeCflI w = .error e) ↔ bits w 22 5 % 8 = 7 := by
  have fields : bits w 22 5 = bits w 22 3 + 8 * bits w 25 2 := bits_add w 22 3 2
  have range := bits_lt w 22 3
  unfold decodeCflI
  split <;> simp at * <;> omega

/-- What the list rejects of CFLr: the form 11, an unused `Op` of CFLrt or CFLri, an unused `Op` of CFLrs. -/
def illegalCflR (w : Word) : Prop :=
  bits w 2 2 = 3 ∨ ((bits w 2 2 = 0 ∨ bits w 2 2 = 1) ∧ (bits w 0 2 = 2 ∨ bits w 0 2 = 3)) ∨
    (bits w 2 2 = 2 ∧ bits w 0 2 ≠ 2)

theorem illegalCflR_iff (w : Word) : illegalCflR w ↔
    bits w 0 4 ≠ 0 ∧ bits w 0 4 ≠ 1 ∧ bits w 0 4 ≠ 4 ∧ bits w 0 4 ≠ 5 ∧ bits w 0 4 ≠ 10 := by
  have fields : bits w 0 4 = bits w 0 2 + 4 * bits w 2 2 := bits_add w 0 2 2
  have op := bits_lt w 0 2
  have form := bits_lt w 2 2
  unfold illegalCflR
  omega

theorem decodeCflNd_error_iff (w : Word) : (∃ e, decodeCflNd w = .error e) ↔ illegalCflR w := by
  rw [illegalCflR_iff]
  unfold decodeCflNd
  split <;> simp at * <;> omega

theorem decodeCflD_error_iff (w : Word) : (∃ e, decodeCflD w = .error e) ↔ illegalCflR w := by
  rw [illegalCflR_iff]
  unfold decodeCflD
  split <;> simp at * <;> omega

theorem decodeAlu_error_iff (w : Word) : (∃ e, decodeAlu w = .error e) ↔
    (bits w 4 3 = 1 ∨ bits w 4 3 = 7) ∨
    (bits w 4 3 = 0 ∧ unusedAluFunction w) ∨
    (bits w 4 3 = 2 ∧ 2 ≤ bits w 0 4) ∨
    ((bits w 4 3 = 3 ∨ bits w 4 3 = 6) ∧ 7 ≤ bits w 0 4) ∨
    (bits w 4 3 = 4 ∧ bits w 0 4 ≠ 6 ∧ bits w 0 4 ≠ 7 ∧ bits w 0 4 ≠ 10) := by
  have range := bits_lt w 4 3
  unfold decodeAlu
  split
  case h_1 opc => simp [opc, decodeAluR_error_iff]
  case h_2 opc => simp [opc, decodeMultiply_error_iff]
  case h_3 opc => simp [opc, decodeCompare_error_iff]
  case h_4 opc => simp [opc, decodePredicate_error_iff]
  case h_5 opc => simp [opc]
  case h_6 opc => simp [opc, decodeCompareImm_error_iff]
  case h_7 =>
    simp only [imp_false] at *
    refine iff_of_true ⟨.aluOpcode, rfl⟩ (.inl ?_)
    omega

theorem sizeFlag_iff (w : Word) : sizeFlag w = true ↔ bits w 31 1 ≠ 0 := by
  have range := bits_lt w 31 1
  simp [sizeFlag]
  omega

theorem decodeLong_error_iff (w long : Word) : (∃ e, decodeLong w long = .error e) ↔
    unusedAluFunction w ∨ bits w 4 3 ≠ 0 ∨ bits w 31 1 = 0 := by
  unfold decodeLong
  split
  case isTrue assigned =>
    obtain ⟨flag, opc⟩ : bits w 31 1 ≠ 0 ∧ bits w 4 3 = 0 := by simpa [sizeFlag_iff] using assigned
    simp [decodeLongFunction_error_iff, opc, flag]
  case isFalse unassigned =>
    have rejected : bits w 4 3 ≠ 0 ∨ bits w 31 1 = 0 := by
      simp only [Bool.and_eq_true, sizeFlag_iff, beq_iff_eq] at unassigned
      omega
    exact iff_of_true ⟨.longImmediate, rfl⟩ (.inr rejected)

/-- The words that do not decode are the list's: each major opcode has its own decoder or none. -/
theorem decode_error_iff (w long : Word) : (∃ e, decode w long = .error e) ↔ illegalWord w := by
  have range := bits_lt w 22 5
  unfold decode
  split
  case h_1 major | h_2 major | h_3 major | h_4 major | h_5 major | h_6 major | h_7 major | h_8 major =>
    simp [illegalWord, major]
  case h_9 major => simp [illegalWord, major, decodeAlu_error_iff, unusedAluFunction]
  case h_10 major => simp [illegalWord, major, decodeSpecial_error_iff]
  case h_11 major => simp [illegalWord, major, decodeLoad_error_iff]
  case h_12 major => simp [illegalWord, major, decodeStore_error_iff]
  case h_13 major => simp [illegalWord, major, decodeStack_error_iff]
  case h_14 major | h_15 major | h_16 major | h_17 major | h_18 major | h_19 major | h_20 major | h_21 major =>
    simp [illegalWord, major, decodeCflI_error_iff]
  case h_22 major => simp [illegalWord, major, decodeCflNd_error_iff, illegalCflR]
  case h_23 major => simp [illegalWord, major, decodeCflD_error_iff, illegalCflR]
  case h_24 major => simp [illegalWord, major, decodeLong_error_iff, unusedAluFunction]
  case h_25 =>
    refine iff_of_true ⟨.majorOpcode, rfl⟩ (.inl ?_)
    simp only [imp_false] at *
    omega

end Sys2Proof

namespace Sys2Proof.Machine

/-! ### Bundles with an illegal word -/

theorem runOne_of_illegalWord {w : Word} (illegal : illegalWord w) (s : State) (long : Word) :
    runOne s w long = if s.ps (guardOf w) then s.illegalOperation else .next s := by
  obtain ⟨e, rejected⟩ := (decode_error_iff w long).2 illegal
  rw [runOne, rejected]

theorem State.enablesIllegal_of_illegalWord {s : State} {w : Word} (illegal : illegalWord w)
    (on : s.ps (guardOf w) = true) (long : Word) : s.enablesIllegal w (decode w long) = true := by
  obtain ⟨e, rejected⟩ := (decode_error_iff w long).2 illegal
  rw [rejected]
  exact on

theorem runTwo_of_enablesIllegal {s : State} {w0 w1 : Word} (dual : s.cfg.dualIssue = true)
    (allowed : ∀ f, formatOf w1 = some f → s.cfg.allowsSecond f = true)
    (illegal : s.enablesIllegal w0 (decode w0 0) = true ∨ s.enablesIllegal w1 (decode w1 0) = true) :
    runTwo s w0 w1 = s.illegalOperation := by
  unfold runTwo
  rw [if_neg (by simp [dual]), if_neg, if_pos (by simpa using illegal)]
  cases format : formatOf w1 with
  | none => simp
  | some f => simp [allowed f format]

/-- Settles O3: the words are sorted by their major opcode, and by each decoder's function field; a bundle looks for an
enabled word that does not decode before it executes anything. -/
theorem illegalEncodings : Obligations.IllegalEncodings := by
  unfold Obligations.IllegalEncodings
  refine ⟨decode_error_iff, fun s w long illegal on => ?_, fun s w long illegal off => ?_,
    fun s w0 w1 dual allowed illegal => ?_, fun long => rfl⟩
  · rw [runOne_of_illegalWord illegal, if_pos on]
  · rw [runOne_of_illegalWord illegal, if_neg (by simp [off])]
  · refine runTwo_of_enablesIllegal dual allowed ?_
    exact illegal.imp (fun ⟨bad, on⟩ => State.enablesIllegal_of_illegalWord bad on 0)
      (fun ⟨bad, on⟩ => State.enablesIllegal_of_illegalWord bad on 0)

end Sys2Proof.Machine
end

section
/-! PROOFS. Exceptions: where each class of them returns to, and which interrupt is taken (60_exceptions R404, R417,
R420, R421). -/
namespace Sys2Proof.Machine

/-! ### What exception entry leaves in the exception unit -/

/-- The return information of exception entry, in whichever class: `sxb` is the interrupted base, and `xret` recomputes
the return address (60_exceptions R421). -/
theorem State.takeException_returns {s t : State} {n : Fin 32} {ret : Word} (h : s.takeException n ret = .next t) :
    t.sp.sxb = s.base ∧ t.sp.sxb + t.sp.sxo = ret ∧ t.excReturnTarget = ret := by
  obtain ⟨-, z, m, rfl, -⟩ := State.takeException_next h
  have recomputed : s.base + (ret - s.base) = ret := by rw [BitVec.add_comm, BitVec.sub_add_cancel]
  exact ⟨rfl, recomputed, recomputed⟩

theorem State.takeException_source {s t : State} {n : Fin 32} {ret : Word} (h : s.takeException n ret = .next t) :
    t.exc.source = BitVec.ofNat 32 n.val := by
  obtain ⟨-, z, m, rfl, -⟩ := State.takeException_next h
  rfl

/-- The push of `status` leaves interrupts disabled (60_exceptions R404, R420). -/
theorem State.takeException_disables {s t : State} {n : Fin 32} {ret : Word} (h : s.takeException n ret = .next t) :
    t.exc.status.getLsbD 0 = false := by
  obtain ⟨-, z, m, rfl, -⟩ := State.takeException_next h
  show ((s.exc.status <<< 2) ||| 2).getLsbD 0 = false
  rw [BitVec.getLsbD_or, BitVec.getLsbD_shiftLeft]
  rfl

/-! ### Each class of exception as an entry -/

/-- Taking an interrupt, if it answers a next state, is exception entry in the interrupted code, with the bundle not
executed as return address. -/
theorem State.takeInterrupt_next {s t : State} {i : Fin 16} {bit : Nat} (h : s.takeInterrupt i bit = .next t) :
    ∃ u : State, u.base = s.base ∧ u.takeException (Fin.ofNat 32 (16 + i.val)) s.pc = .next t := by
  rw [State.takeInterrupt] at h
  exact ⟨_, by rfl, h⟩

/-- An enabled `trap`, if it answers a next state, is exception entry with the word after it as return address. -/
theorem exec_trap_next {g : PredOp} {imm : BitVec 22} {s t : State} (on : s.ps g = true)
    (h : exec (.trap g imm) s = .next t) : s.takeException (Fin.ofNat 32 imm.toNat) (s.pc + 4) = .next t := by
  have body : s.guarded g _ = .next t := h
  rw [State.guarded_of_true on] at body
  obtain ⟨-, numbered⟩ := need_next body
  obtain ⟨-, alone⟩ := need_next numbered
  exact (need_next alone).2

/-- Settles O49: an interrupt, a fault and a trap are all exception entry, with the return address of their class. -/
theorem returnAddressOfExceptions : Obligations.ReturnAddressOfExceptions := by
  unfold Obligations.ReturnAddressOfExceptions
  refine ⟨fun s t i bit h => ?interrupt, fun s t n h => ?fault, fun s t g imm on h => ?trap⟩
  case interrupt =>
    obtain ⟨u, sameBase, entered⟩ := State.takeInterrupt_next h
    exact sameBase ▸ State.takeException_returns entered
  case fault => exact State.takeException_returns (State.raise_next h).2
  case trap => exact State.takeException_returns (exec_trap_next on h)

/-! ### The interrupt due at a boundary -/

/-- Looking through the numbers in order finds the lowest one with the property. -/
theorem find?_finRange_eq_some_iff {n : Nat} (p : Fin n → Bool) (i : Fin n) :
    (List.finRange n).find? p = some i ↔ p i = true ∧ ∀ j < i, p j = false := by
  rw [List.find?_eq_some_iff_getElem]
  refine and_congr_right fun _ => ⟨?first, fun lower => ?found⟩
  case first =>
    rintro ⟨k, hk, rfl, lower⟩ j hj
    rw [List.getElem_finRange] at hj
    have skipped := lower j.val hj
    rw [List.getElem_finRange, Bool.not_eq_true'] at skipped
    exact skipped
  case found =>
    refine ⟨i.val, by rw [List.length_finRange]; exact i.isLt, List.getElem_finRange _, fun k hk => ?_⟩
    rw [List.getElem_finRange, Bool.not_eq_true']
    exact lower ⟨k, Nat.lt_trans hk i.isLt⟩ hk

theorem find?_finRange_eq_none_iff {n : Nat} (p : Fin n → Bool) :
    (List.finRange n).find? p = none ↔ ∀ i, p i = false := by
  rw [List.find?_eq_none]
  refine forall_congr' fun i => ?_
  rw [Bool.not_eq_true]
  exact ⟨fun absent => absent (List.mem_finRange i), fun absent _ => absent⟩

/-- Interrupts can be taken at this boundary: they are enabled, and neither a transfer nor a multiply is under way
(60_exceptions R416). -/
def State.interruptible (s : State) : Prop :=
  s.exc.status.getLsbD 0 = true ∧ s.pending = none ∧ s.mulShadow = 0

theorem State.dueInterrupt_of_interruptible {s : State} (h : s.interruptible) :
    s.dueInterrupt = (List.finRange 16).find? s.wants := by
  obtain ⟨enabled, settled, multiplied⟩ := h
  have taken : (s.exc.status.getLsbD 0 && s.pending.isNone && s.mulShadow == 0) = true := by
    rw [enabled, settled, multiplied]
    rfl
  rw [State.dueInterrupt, if_pos taken]

theorem State.dueInterrupt_of_not_interruptible {s : State} (h : ¬ s.interruptible) : s.dueInterrupt = none := by
  rw [State.dueInterrupt, if_neg]
  simpa only [State.interruptible, Bool.and_eq_true, Option.isNone_iff_eq_none, beq_iff_eq, and_assoc] using h

theorem State.dueInterrupt_eq_some_iff (s : State) (i : Fin 16) :
    s.dueInterrupt = some i ↔ s.interruptible ∧ s.wants i = true ∧ ∀ j < i, s.wants j = false := by
  by_cases h : s.interruptible
  · rw [State.dueInterrupt_of_interruptible h, find?_finRange_eq_some_iff, and_iff_right h]
  · rw [State.dueInterrupt_of_not_interruptible h]
    exact ⟨nofun, fun due => absurd due.1 h⟩

theorem State.dueInterrupt_eq_none_iff (s : State) :
    s.dueInterrupt = none ↔ ¬ s.interruptible ∨ ∀ i, s.wants i = false := by
  by_cases h : s.interruptible
  · rw [State.dueInterrupt_of_interruptible h, find?_finRange_eq_none_iff, or_iff_right (not_not_intro h)]
  · exact iff_of_true (State.dueInterrupt_of_not_interruptible h) (.inl h)

theorem State.interruptible_iff_enabled {s : State} (settled : s.pending = none) (multiplied : s.mulShadow = 0) :
    s.interruptible ↔ s.exc.status.getLsbD 0 = true :=
  and_iff_left ⟨settled, multiplied⟩

theorem State.dueInterrupt_of_disabled {s : State} (h : s.exc.status.getLsbD 0 = false) : s.dueInterrupt = none :=
  State.dueInterrupt_of_not_interruptible fun ⟨enabled, _⟩ => Bool.false_ne_true (h.symm.trans enabled)

/-- Settles O52: the interrupt due is the first one wanted in numerical order; taking it is exception entry, which
disables interrupts. -/
theorem interruptSelection : Obligations.InterruptSelection := by
  unfold Obligations.InterruptSelection
  intro s settled multiplied
  have enabled_iff := State.interruptible_iff_enabled settled multiplied
  refine ⟨fun i => ?some, ?none, fun i bit t h => ?taken⟩
  case some => exact (s.dueInterrupt_eq_some_iff i).trans (and_congr_left' enabled_iff)
  case none =>
    have disabled_iff : ¬ s.interruptible ↔ s.exc.status.getLsbD 0 = false := by
      rw [enabled_iff, Bool.not_eq_true]
    exact s.dueInterrupt_eq_none_iff.trans (or_congr_left disabled_iff)
  case taken =>
    have number : (Fin.ofNat 32 (16 + i.val)).val = 16 + i.val := Nat.mod_eq_of_lt (by omega)
    obtain ⟨u, -, entered⟩ := State.takeInterrupt_next h
    have disabled := State.takeException_disables entered
    exact ⟨number ▸ State.takeException_source entered, disabled, State.dueInterrupt_of_disabled disabled⟩

end Sys2Proof.Machine
end

section
/-! PROOFS. The registers of the devices: what a word load or store at a register does, device by device
(60_exceptions R443 to R456). -/
namespace Sys2Proof.Machine

/-! ### A word access to a register of a present device -/

theorem localArea_of_device {a : Word} {k : Fin 16} {off : Nat} (low : off < 0x10000)
    (address : a.toNat = 0xf0000000 + k.val * 2 ^ 16 + off) : localArea a = .device k off := by
  have number := k.isLt
  have area : localArea a = .device (Fin.ofNat 16 (a.toNat / 2 ^ 16)) (a.toNat % 2 ^ 16) := by
    rw [localArea, if_neg (by omega), if_neg (by omega), if_neg (by omega), if_neg (by omega), if_pos (by omega)]
  have device : Fin.ofNat 16 (a.toNat / 2 ^ 16) = k := Fin.ext (show a.toNat / 2 ^ 16 % 16 = k.val by omega)
  have offset : a.toNat % 2 ^ 16 = off := by omega
  rw [area, device, offset]

theorem State.ready.mono {s : State} {g : PredOp} {rs rs' : List GReg} (on : s.ready g rs) (sub : rs' ⊆ rs) :
    s.ready g rs' :=
  on.imp_right fun unshadowed r hr => unshadowed r (sub hr)

/-- An offset of a register: a word's, in a device's window of 64 KiB (20_memory R65). -/
abbrev registerOffset (off : Nat) : Prop := off < 0x10000 ∧ off % 4 = 0

theorem aligned_of_registerAt {s : State} {d : Device} {off : Nat} {a : Word} (reg : registerOffset off)
    (place : s.registerAt d off a) : aligned .word a = true := by
  obtain ⟨-, multiple⟩ := reg
  obtain ⟨k, -, address⟩ := place
  have whole : a.toNat % 4 = 0 := by omega
  exact beq_iff_eq.mpr whole

theorem State.loadFrom_of_registerAt {s : State} {d : Device} {off : Nat} {a : Word} (reg : registerOffset off)
    (place : s.registerAt d off a) : s.loadFrom .lm a .word = s.loadDevice d off := by
  have whole := aligned_of_registerAt reg place
  obtain ⟨k, present, address⟩ := place
  simp [State.loadFrom, whole, State.loadLocal, localArea_of_device reg.1 address, present]

theorem State.storeTo_of_registerAt {s : State} {d : Device} {off : Nat} {a : Word} (reg : registerOffset off)
    (place : s.registerAt d off a) (v : Word) : s.storeTo .lm a .word v = s.storeDevice d off v := by
  have whole := aligned_of_registerAt reg place
  obtain ⟨k, present, address⟩ := place
  simp [State.storeTo, whole, State.storeLocal, localArea_of_device reg.1 address, present]

/-- What a word load into `rd` answers, from what its access gives (46_load R281 to R284). -/
def State.afterLoad (s : State) (rd : GReg) : Load → Result
  | .value v t => .next (t.loaded rd v)
  | .fault => s.illegalAccess
  | .refuse why => .refused why

/-- What a store answers, from what its access gives (47_store R311). -/
def State.afterStore (s : State) : Store → Result
  | .done t => .next t
  | .fault => s.illegalAccess
  | .hang => .fault .deviceHang
  | .refuse why => .refused why

theorem exec_lwl_of_registerAt {g : PredOp} {rd ra : GReg} {imm : BitVec 7} {s : State} {d : Device} {off : Nat}
    (on : s.ready g [ra, rd]) (reg : registerOffset off)
    (place : s.registerAt d off (effective (s.reg ra) .word imm)) :
    exec (.lwl g rd ra imm) s = s.afterLoad rd (s.loadDevice d off) := by
  obtain ⟨enabled, unshadowed⟩ := on
  have base := unshadowed ra (by simp)
  have dest := unshadowed rd (by simp)
  show loadTyped .lm .word false g rd ra imm s = _
  rw [loadTyped, State.guarded_of_true enabled, State.use_of_ready base, need_of_true (by rw [dest]; rfl),
    State.loadFrom_of_registerAt reg place]
  cases s.loadDevice d off <;> rfl

theorem exec_swl_of_registerAt {g : PredOp} {ra rs : GReg} {imm : BitVec 7} {s : State} {d : Device} {off : Nat}
    (on : s.ready g [ra, rs]) (reg : registerOffset off)
    (place : s.registerAt d off (effective (s.reg ra) .word imm)) :
    exec (.swl g ra rs imm) s = s.afterStore (s.storeDevice d off (s.reg rs)) := by
  obtain ⟨enabled, unshadowed⟩ := on
  have base := unshadowed ra (by simp)
  have value := unshadowed rs (by simp)
  show storeTyped .lm .word g ra rs imm s = _
  rw [storeTyped, State.guarded_of_true enabled, State.use_of_ready base, State.use_of_ready value,
    State.storeTo_of_registerAt reg place]
  cases s.storeDevice d off (s.reg rs) <;> rfl

/-! ### The timer (60_exceptions R443, R445, R446) -/

/-- The offset of a counter's high word; its low word comes after it (60_exceptions R443). -/
def TimerCounter.highOffset : TimerCounter → Nat
  | .cycles => 0x0
  | .usecs => 0x8

def TimerCounter.lowOffset (k : TimerCounter) : Nat := k.highOffset + 4

theorem TimerCounter.registerOffset_highOffset (k : TimerCounter) : registerOffset k.highOffset := by
  cases k <;> decide

theorem TimerCounter.registerOffset_lowOffset (k : TimerCounter) : registerOffset k.lowOffset := by
  cases k <;> decide

theorem State.loadTimer_lowOffset (s : State) (k : TimerCounter) : s.loadTimer k.lowOffset = s.loadTimerLow k := by
  cases k <;> rfl

theorem State.loadTimer_highOffset (s : State) (k : TimerCounter) : s.loadTimer k.highOffset = s.loadTimerHigh k := by
  cases k <;> rfl

theorem State.storeTimer_lowOffset (s : State) (k : TimerCounter) (v : Word) :
    s.storeTimer k.lowOffset v = s.storeTimerLow k v := by
  cases k <;> rfl

theorem State.storeTimer_highOffset (s : State) (k : TimerCounter) (v : Word) :
    s.storeTimer k.highOffset v = s.storeTimerHigh k v := by
  cases k <;> rfl

theorem Timer.arm_eq (t : Timer) (k : TimerCounter) (x : BitVec 64) :
    t.arm k x = { t with cycleTime := if k = .cycles then some x else t.cycleTime
                         usecTime := if k = .usecs then some x else t.usecTime } := by
  cases k <;> rfl

theorem Timer.counter_of_offsets {t : Timer} {k : TimerCounter} {x : BitVec 64} {lo hi : Nat}
    (h : k = .cycles ∧ x = t.cycles ∧ hi = 0x0 ∧ lo = 0x4 ∨ k = .usecs ∧ x = t.usecs ∧ hi = 0x8 ∧ lo = 0xc) :
    x = t.counter k ∧ lo = k.lowOffset ∧ hi = k.highOffset := by
  obtain ⟨rfl, rfl, rfl, rfl⟩ | ⟨rfl, rfl, rfl, rfl⟩ := h <;> exact ⟨rfl, rfl, rfl⟩

/-! ### The UARTs (60_exceptions R450, R451) -/

theorem State.loadDevice_uart (s : State) (port : Bool) (off : Nat) :
    s.loadDevice (if port then .uart2 else .uart) off = s.loadUart port off := by
  cases port <;> rfl

theorem State.storeDevice_uart (s : State) (port : Bool) (off : Nat) (v : Word) :
    s.storeDevice (if port then .uart2 else .uart) off v = s.storeUart port off v := by
  cases port <;> rfl

theorem State.uartDav_eq (s : State) (port : Bool) :
    s.uartDav port = (Config.uartShown port s.ticks && (s.uartOf port).rx != []) := by
  rw [State.uartDav, Bool.and_comm]
  cases (s.uartOf port).rx <;> rfl

theorem uartStatus_eq (dav tre : Bool) : (BitVec.ofBool dav ++ BitVec.ofBool tre).setWidth 32 =
    ((if dav then 2 else 0) + (if tre then 1 else 0) : Word) := by
  cases dav <;> cases tre <;> rfl

theorem State.loadUart_data_of_waiting {s : State} {port : Bool} {b : Byte} {rest : List Byte}
    (seen : (s.uartOf port).dataSeen = true) (waiting : (s.uartOf port).rx = b :: rest) :
    s.loadUart port 4 =
      .value (b.setWidth 32) (s.withUart port { s.uartOf port with rx := rest, dataSeen := false }) := by
  simp only [State.loadUart, seen, waiting]

theorem State.loadUart_data_of_unknown {s : State} {port : Bool}
    (unknown : (s.uartOf port).dataSeen = false ∨ (s.uartOf port).rx = []) :
    s.loadUart port 4 = .refuse .uartProtocol := by
  obtain unseen | empty := unknown
  · simp only [State.loadUart, unseen]
  · cases seen : (s.uartOf port).dataSeen <;> simp only [State.loadUart, seen, empty]

/-! ### The obligation -/

/-- Settles O35: a word access to a register answers what the device's own load or store there gives, so each clause
is about that device alone; the timer's two counters, and the two UARTs, go through one argument each. -/
theorem deviceRegisters : Obligations.DeviceRegisters := by
  unfold Obligations.DeviceRegisters
  rintro g r ra rs imm s _ on rfl
  have load {d : Device} {off : Nat} (reg : registerOffset off) :=
    exec_lwl_of_registerAt (d := d) (imm := imm) (on.mono (rs' := [ra, r]) (by simp)) reg
  have store {d : Device} {off : Nat} (reg : registerOffset off) :=
    exec_swl_of_registerAt (d := d) (imm := imm) (on.mono (rs' := [ra, rs]) (by simp)) reg
  refine ⟨fun k x lo hi named => ?timer, ?uart, fun leds => ?leds, fun keys => ?keys, fun deadline => ?deadline,
    fun counter => ?counter⟩
  case timer =>
    obtain ⟨rfl, rfl, rfl⟩ := Timer.counter_of_offsets named
    refine ⟨fun low => ⟨?_, ?_⟩, fun high => ?_⟩
    · rw [load k.registerOffset_lowOffset low, State.loadDevice, State.loadTimer_lowOffset]
      rfl
    · rw [store k.registerOffset_lowOffset low, State.storeDevice, State.storeTimer_lowOffset]
      rfl
    · rw [load k.registerOffset_highOffset high, State.loadDevice, State.loadTimer_highOffset, State.loadTimerHigh,
        store k.registerOffset_highOffset high, State.storeDevice, State.storeTimer_highOffset, State.storeTimerHigh]
      refine ⟨fun latched => ?_, fun unlatched => ?_, fun held => ?_, fun unheld => ?_⟩
      · rw [if_pos latched]
        rfl
      · rw [if_neg unlatched]
        rfl
      · rw [if_pos held, Timer.arm_eq]
        rfl
      · rw [if_neg unheld]
        rfl
  case uart =>
    rintro port _ _ _ _ rfl rfl rfl rfl
    refine ⟨fun status => ⟨?_, ?_⟩, fun data => ⟨?_, fun b rest seen waiting => ?_, fun unknown => ?_⟩⟩
    · rw [load (by decide) status, State.loadDevice_uart, ← State.uartDav_eq, ← uartStatus_eq]
      rfl
    · rw [store (by decide) status, State.storeDevice_uart]
      rfl
    · rw [store (by decide) data, State.storeDevice_uart]
      rfl
    · rw [load (by decide) data, State.loadDevice_uart, State.loadUart_data_of_waiting seen waiting]
      rfl
    · rw [load (by decide) data, State.loadDevice_uart, State.loadUart_data_of_unknown unknown]
      rfl
  case leds => exact ⟨store (by decide) leds, load (by decide) leds⟩
  case keys => exact ⟨load (by decide) keys, store (by decide) keys⟩
  case deadline => exact ⟨store (by decide) deadline, load (by decide) deadline⟩
  case counter =>
    rw [load (by decide) counter, store (by decide) counter]
    refine ⟨fun runs => ?_, fun stopped => ?_⟩
    · simp only [State.loadDevice, State.loadCounter, State.storeDevice, State.storeCounter, runs]
      exact ⟨rfl, rfl⟩
    · simp only [State.loadDevice, State.loadCounter, State.storeDevice, State.storeCounter, stopped]
      exact ⟨rfl, rfl⟩

end Sys2Proof.Machine
end

section
/-! PROOFS. The encoder and the decoder: the fields of a packed word, that decoding gives an encoded instruction back
(30_encoding R129 to R147), and that the decoder reads the rows of the opcode table. -/
namespace Sys2Proof

/-! ### The fields of a packed word -/

theorem PredOp.ofCode_code (p : PredOp) : PredOp.ofCode p.code = p := by
  obtain ⟨neg, reg⟩ := p
  have low := reg.isLt
  cases neg
  · simp only [PredOp.ofCode, PredOp.code, PredOp.mk.injEq, beq_eq_false_iff_ne]
    exact ⟨by simp; omega, Fin.ext (by simp)⟩
  · simp only [PredOp.ofCode, PredOp.code, PredOp.mk.injEq, beq_iff_eq]
    exact ⟨by simp; omega, Fin.ext (by simp)⟩

theorem PredOp.code_lt (p : PredOp) : p.code < 16 := Nat.lt_succ_of_le (Laws.code_le p)

theorem bits_ofNat {x : Nat} (h : x < 2 ^ 32) (lo n : Nat) : bits (BitVec.ofNat 32 x) lo n = x / 2 ^ lo % 2 ^ n := by
  rw [bits, BitVec.toNat_ofNat, Nat.mod_eq_of_lt h]

theorem packed_lt (g : PredOp) {major low : Nat} (hm : major < 32) (hl : low < 2 ^ 22) :
    g.code * 2 ^ 27 + major * 2 ^ 22 + low < 2 ^ 31 := by
  have := g.code_lt
  omega

theorem bits_packWord_major (g : PredOp) {major low : Nat} (hm : major < 32) (hl : low < 2 ^ 22) :
    bits (packWord g major low) 22 5 = major := by
  have := packed_lt g hm hl
  rw [packWord, bits_ofNat (by omega)]
  omega

theorem guardOf_packWord (g : PredOp) {major low : Nat} (hm : major < 32) (hl : low < 2 ^ 22) :
    guardOf (packWord g major low) = g := by
  have := packed_lt g hm hl
  have field : bits (packWord g major low) 27 4 = g.code := by
    rw [packWord, bits_ofNat (by omega)]
    omega
  rw [guardOf, field, PredOp.ofCode_code]

/-- A field below the major opcode is a field of the 22 bits packed there. -/
theorem bits_packWord_low (g : PredOp) {major low : Nat} (hm : major < 32) (hl : low < 2 ^ 22) {lo n : Nat}
    (inside : lo + n ≤ 22) : bits (packWord g major low) lo n = low / 2 ^ lo % 2 ^ n := by
  have := packed_lt g hm hl
  obtain ⟨k, hk⟩ := Nat.exists_eq_add_of_le inside
  have split : g.code * 2 ^ 27 + major * 2 ^ 22 + low =
      low + 2 ^ lo * (2 ^ n * (2 ^ k * (g.code * 2 ^ 5 + major))) := by
    have : 2 ^ lo * (2 ^ n * (2 ^ k * (g.code * 2 ^ 5 + major))) = 2 ^ 22 * (g.code * 2 ^ 5 + major) := by
      rw [hk, Nat.pow_add, Nat.pow_add, Nat.mul_assoc, Nat.mul_assoc]
    omega
  rw [packWord, bits_ofNat (by omega), split, Nat.add_mul_div_left _ _ (Nat.two_pow_pos lo), Nat.add_mul_mod_self_left]

/-- The fields of a word: guard, major opcode, the three register-sized fields and the seven bits below them
(30_encoding R124). -/
structure Fields (w : Word) (g : PredOp) (major a b c d : Nat) : Prop where
  guard : guardOf w = g
  major : bits w 22 5 = major
  a : bits w 17 5 = a
  b : bits w 12 5 = b
  c : bits w 7 5 = c
  d : bits w 0 7 = d

theorem fields_packWord (g : PredOp) {major a b c d : Nat} (hm : major < 32) (ha : a < 32) (hb : b < 32) (hc : c < 32)
    (hd : d < 128) : Fields (packWord g major (packFields a b c d)) g major a b c d := by
  have hl := Laws.packFields_lt a b c d ha hb hc hd
  refine ⟨guardOf_packWord g hm hl, bits_packWord_major g hm hl, ?_, ?_, ?_, ?_⟩ <;>
    rw [bits_packWord_low g hm hl (by omega), packFields] <;> omega

theorem fields_packLong (g : PredOp) (rd rs1 : GReg) {func : Nat} (hf : func < 128) :
    Fields (packLong g rd rs1 func) g 31 rd.val rs1.val 0 func := by
  have := g.code_lt
  have field (lo n : Nat) := bits_ofNat (x := 2 ^ 31 + g.code * 2 ^ 27 + 31 * 2 ^ 22 + packFields rd.val rs1.val 0 func)
    (by rw [packFields]; omega) lo n
  have guard : bits (packLong g rd rs1 func) 27 4 = g.code := by
    rw [packLong, field, packFields]
    omega
  refine ⟨by rw [guardOf, guard, PredOp.ofCode_code], ?_, ?_, ?_, ?_, ?_⟩ <;>
    rw [packLong, field, packFields] <;> omega

/-- A field is the low part of a wider one. -/
theorem bits_low (w : Word) (lo m n : Nat) : bits w lo m = bits w lo (m + n) % 2 ^ m := by
  rw [bits, bits, Nat.pow_add, Nat.mod_mul_right_mod]

/-- A field is the high part of a wider one. -/
theorem bits_high (w : Word) (lo m n : Nat) : bits w (lo + m) n = bits w lo (m + n) / 2 ^ m := by
  have low := bits_lt w lo m
  rw [bits_add, Nat.add_mul_div_left _ _ (Nat.two_pow_pos m), Nat.div_eq_of_lt low, Nat.zero_add]

section fields
variable {w : Word} {g : PredOp} {major a b c d : Nat}

theorem Fields.rd {r : GReg} (h : Fields w g major r.val b c d) : rdOf w = r := by
  rw [rdOf, h.a, Fin.ofNat_val_eq_self]

theorem Fields.rs1 {r : GReg} (h : Fields w g major a r.val c d) : rs1Of w = r := by
  rw [rs1Of, h.b, Fin.ofNat_val_eq_self]

theorem Fields.rs2 {r : GReg} (h : Fields w g major a b r.val d) : rs2Of w = r := by
  rw [rs2Of, h.c, Fin.ofNat_val_eq_self]

theorem Fields.pd {p : PReg} (h : Fields w g major p.val b c d) : pdOf w = p := by
  rw [pdOf, bits_low w 17 3 2, h.a]
  exact Fin.ext (by simp)

theorem Fields.ps1 {p : PredOp} (h : Fields w g major a p.code c d) : PredOp.ofCode (bits w 12 4) = p := by
  rw [bits_low w 12 4 1, h.b, Nat.mod_eq_of_lt (by exact p.code_lt), PredOp.ofCode_code]

theorem Fields.ps2 {p : PredOp} (h : Fields w g major a b p.code d) : PredOp.ofCode (bits w 7 4) = p := by
  rw [bits_low w 7 4 1, h.c, Nat.mod_eq_of_lt (by exact p.code_lt), PredOp.ofCode_code]

theorem Fields.imm5 {x : BitVec 5} (h : Fields w g major a b x.toNat d) : imm5Of w = x := by
  rw [imm5Of, h.c, BitVec.ofNat_toNat, BitVec.setWidth_eq]

theorem Fields.imm7 {x : BitVec 7} (h : Fields w g major a b c x.toNat) : imm7Of w = x := by
  rw [imm7Of, h.d, BitVec.ofNat_toNat, BitVec.setWidth_eq]

theorem Fields.func (h : Fields w g major a b c d) : bits w 0 4 = d % 2 ^ 4 := by rw [bits_low w 0 4 3, h.d]

theorem Fields.opc (h : Fields w g major a b c d) : bits w 4 3 = d / 2 ^ 4 := by
  have high := bits_high w 0 4 3
  rwa [h.d] at high

end fields

/-! ### The words of each format, as the decoder reads them -/

theorem fields_packAlu (g : PredOp) {major a b c opc func : Nat} (hm : major < 32) (ha : a < 32) (hb : b < 32)
    (hc : c < 32) (ho : opc < 8) (hf : func < 16) :
    Fields (packAlu g major a b c opc func) g major a b c (opc * 2 ^ 4 + func) ∧
      bits (packAlu g major a b c opc func) 4 3 = opc ∧ bits (packAlu g major a b c opc func) 0 4 = func := by
  have f : Fields (packAlu g major a b c opc func) g major a b c (opc * 2 ^ 4 + func) :=
    fields_packWord g hm ha hb hc (by omega)
  refine ⟨f, ?_, ?_⟩
  · rw [f.opc]
    omega
  · rw [f.func]
    omega

section formats
variable {w : Word} {g : PredOp} {rd rs1 rs2 : GReg} {pd : PReg} {ps1 ps2 : PredOp} {func : Nat}

theorem read_aluR (h : w = packAlu g 8 rd.val rs1.val rs2.val 0 func) (hf : func < 16) :
    bits w 22 5 = 8 ∧ bits w 4 3 = 0 ∧ bits w 0 4 = func ∧ guardOf w = g ∧ rdOf w = rd ∧ rs1Of w = rs1 ∧
      rs2Of w = rs2 := by
  obtain ⟨f, opc, fn⟩ := h ▸ fields_packAlu g (by omega) rd.isLt rs1.isLt rs2.isLt (by omega) hf
  exact ⟨f.major, opc, fn, f.guard, f.rd, f.rs1, f.rs2⟩

theorem read_aluM (h : w = packAlu g 8 0 rs1.val rs2.val 2 func) (hf : func < 16) :
    bits w 22 5 = 8 ∧ bits w 4 3 = 2 ∧ bits w 0 4 = func ∧ guardOf w = g ∧ rs1Of w = rs1 ∧ rs2Of w = rs2 := by
  obtain ⟨f, opc, fn⟩ := h ▸ fields_packAlu g (by omega) (by omega) rs1.isLt rs2.isLt (by omega) hf
  exact ⟨f.major, opc, fn, f.guard, f.rs1, f.rs2⟩

theorem read_aluC (h : w = packAlu g 8 pd.val rs1.val rs2.val 3 func) (hf : func < 16) :
    bits w 22 5 = 8 ∧ bits w 4 3 = 3 ∧ bits w 0 4 = func ∧ guardOf w = g ∧ pdOf w = pd ∧ rs1Of w = rs1 ∧
      rs2Of w = rs2 := by
  obtain ⟨f, opc, fn⟩ := h ▸ fields_packAlu g (by omega) (by omega) rs1.isLt rs2.isLt (by omega) hf
  exact ⟨f.major, opc, fn, f.guard, f.pd, f.rs1, f.rs2⟩

theorem read_aluCi {imm : BitVec 5} (h : w = packAlu g 8 pd.val rs1.val imm.toNat 6 func) (hf : func < 16) :
    bits w 22 5 = 8 ∧ bits w 4 3 = 6 ∧ bits w 0 4 = func ∧ guardOf w = g ∧ pdOf w = pd ∧ rs1Of w = rs1 ∧
      imm5Of w = imm := by
  obtain ⟨f, opc, fn⟩ := h ▸ fields_packAlu g (by omega) (by omega) rs1.isLt imm.isLt (by omega) hf
  exact ⟨f.major, opc, fn, f.guard, f.pd, f.rs1, f.imm5⟩

theorem read_aluP (h : w = packAlu g 8 pd.val ps1.code ps2.code 4 func) (hf : func < 16) :
    bits w 22 5 = 8 ∧ bits w 4 3 = 4 ∧ bits w 0 4 = func ∧ guardOf w = g ∧ pdOf w = pd ∧
      PredOp.ofCode (bits w 12 4) = ps1 ∧ PredOp.ofCode (bits w 7 4) = ps2 := by
  have := ps1.code_lt
  have := ps2.code_lt
  obtain ⟨f, opc, fn⟩ := h ▸ fields_packAlu g (by omega) (by omega) (by omega) (by omega) (by omega) hf
  exact ⟨f.major, opc, fn, f.guard, f.pd, f.ps1, f.ps2⟩

theorem read_aluB {imm : BitVec 5} (h : w = packAlu g 8 rd.val rs1.val imm.toNat 5 ps1.code) :
    bits w 22 5 = 8 ∧ bits w 4 3 = 5 ∧ guardOf w = g ∧ rdOf w = rd ∧ rs1Of w = rs1 ∧ imm5Of w = imm ∧
      PredOp.ofCode (bits w 0 4) = ps1 := by
  obtain ⟨f, opc, fn⟩ := h ▸ fields_packAlu g (by omega) rd.isLt rs1.isLt imm.isLt (by omega) ps1.code_lt
  exact ⟨f.major, opc, f.guard, f.rd, f.rs1, f.imm5, by rw [fn, PredOp.ofCode_code]⟩

theorem read_spcT {sd : SReg} (h : w = packAlu g 9 0 rs1.val 0 2 sd.val) :
    bits w 22 5 = 9 ∧ bits w 4 3 = 2 ∧ guardOf w = g ∧ srOf w = sd ∧ rs1Of w = rs1 := by
  obtain ⟨f, opc, fn⟩ := h ▸ fields_packAlu g (by omega) (by omega) rs1.isLt (by omega) (by omega) sd.isLt
  exact ⟨f.major, opc, f.guard, by rw [srOf, fn, Fin.ofNat_val_eq_self], f.rs1⟩

theorem read_spcF {ss : SReg} (h : w = packAlu g 9 rd.val 0 0 3 ss.val) :
    bits w 22 5 = 9 ∧ bits w 4 3 = 3 ∧ guardOf w = g ∧ rdOf w = rd ∧ srOf w = ss := by
  obtain ⟨f, opc, fn⟩ := h ▸ fields_packAlu g (by omega) rd.isLt (by omega) (by omega) (by omega) ss.isLt
  exact ⟨f.major, opc, f.guard, f.rd, by rw [srOf, fn, Fin.ofNat_val_eq_self]⟩

theorem read_aluL (h : w = packLong g rd rs1 func) (hf : func < 16) :
    sizeFlag w = true ∧ bits w 22 5 = 31 ∧ bits w 4 3 = 0 ∧ bits w 0 4 = func ∧ guardOf w = g ∧
      rdOf w = rd ∧ rs1Of w = rs1 := by
  have f := h ▸ fields_packLong g rd rs1 (show func < 128 by omega)
  refine ⟨h ▸ Laws.sizeFlag_packLong g rd rs1 func hf, f.major, ?_, ?_, f.guard, f.rd, f.rs1⟩
  · rw [f.opc]
    omega
  · rw [f.func]
    omega

theorem read_aluI {imm : BitVec 12} (h : w = packImm g func rd rs1 imm) (hf : func < 32) :
    bits w 22 5 = func ∧ guardOf w = g ∧ rdOf w = rd ∧ rs1Of w = rs1 ∧ imm12Of w = imm := by
  have hl : rd.val * 2 ^ 17 + rs1.val * 2 ^ 12 + imm.toNat < 2 ^ 22 := by omega
  have field {lo n : Nat} := bits_packWord_low g hf hl (lo := lo) (n := n)
  subst h
  refine ⟨bits_packWord_major g hf hl, guardOf_packWord g hf hl, ?_, ?_, ?_⟩
  · rw [rdOf, packImm, field (by omega)]
    exact Fin.ext (by simp; omega)
  · rw [rs1Of, packImm, field (by omega)]
    exact Fin.ext (by simp; omega)
  · rw [imm12Of, packImm, field (by omega)]
    exact BitVec.eq_of_toNat_eq (by simp; omega)

theorem read_ldt {imm : BitVec 7} (h : w = packWord g 10 (packFields rd.val rs1.val func imm.toNat)) (hf : func < 32) :
    bits w 22 5 = 10 ∧ bits w 7 5 = func ∧ guardOf w = g ∧ rdOf w = rd ∧ rs1Of w = rs1 ∧ imm7Of w = imm := by
  have f := h ▸ fields_packWord g (by omega) rd.isLt rs1.isLt hf imm.isLt
  exact ⟨f.major, f.c, f.guard, f.rd, f.rs1, f.imm7⟩

theorem read_stt {imm : BitVec 7} (h : w = packWord g 11 (packFields func rs1.val rs2.val imm.toNat)) (hf : func < 32) :
    bits w 22 5 = 11 ∧ bits w 17 5 = func ∧ guardOf w = g ∧ rs1Of w = rs1 ∧ rs2Of w = rs2 ∧ imm7Of w = imm := by
  have f := h ▸ fields_packWord g (by omega) hf rs1.isLt rs2.isLt imm.isLt
  exact ⟨f.major, f.a, f.guard, f.rs1, f.rs2, f.imm7⟩

theorem read_stcI {imm : BitVec 18} (h : w = packStack g func imm) (hf : func < 4) :
    bits w 22 5 = 12 ∧ bits w 18 4 = 4 * func ∧ guardOf w = g ∧ imm18Of w = imm := by
  have hl : func * 2 ^ 20 + imm.toNat < 2 ^ 22 := by omega
  have hm : 12 < 32 := by omega
  have field {lo n : Nat} := bits_packWord_low g hm hl (lo := lo) (n := n)
  subst h
  refine ⟨bits_packWord_major g hm hl, ?_, guardOf_packWord g hm hl, ?_⟩
  · rw [packStack, field (by omega)]
    omega
  · rw [imm18Of, packStack, field (by omega)]
    exact BitVec.eq_of_toNat_eq (by simp; omega)

theorem read_stcR (h : w = packStackReg g func rs1) (hf : func < 4) :
    bits w 22 5 = 12 ∧ bits w 18 4 = 4 * func + 1 ∧ guardOf w = g ∧ rs1Of w = rs1 := by
  have hl : func * 2 ^ 20 + 2 ^ 18 + rs1.val * 2 ^ 12 < 2 ^ 22 := by omega
  have hm : 12 < 32 := by omega
  have field {lo n : Nat} := bits_packWord_low g hm hl (lo := lo) (n := n)
  subst h
  refine ⟨bits_packWord_major g hm hl, ?_, guardOf_packWord g hm hl, ?_⟩
  · rw [packStackReg, field (by omega)]
    omega
  · rw [rs1Of, packStackReg, field (by omega)]
    exact Fin.ext (by simp; omega)

theorem read_cflI {imm : BitVec 22} (h : w = packCfl g func imm) (hf : func < 8) :
    bits w 22 5 = 16 + func ∧ bits w 22 3 = func ∧ guardOf w = g ∧ imm22Of w = imm := by
  have hm : 16 + func < 32 := by omega
  have major := bits_packWord_major g hm imm.isLt
  subst h
  refine ⟨major, ?_, guardOf_packWord g hm imm.isLt, ?_⟩
  · rw [bits_low _ 22 3 2, packCfl, major]
    omega
  · rw [imm22Of, packCfl, bits_packWord_low g hm imm.isLt (by omega)]
    exact BitVec.eq_of_toNat_eq (by simp; omega)

theorem read_cflR {d a b : Nat} (h : w = packCflReg g d a b func) (hd : d < 2) (ha : a < 32) (hb : b < 32)
    (hf : func < 16) : bits w 22 5 = 24 + d ∧ bits w 0 4 = func ∧ guardOf w = g ∧ rs1Of w = Fin.ofNat 32 a ∧
      rs2Of w = Fin.ofNat 32 b := by
  have hm : 24 + d < 32 := by omega
  have f : Fields w g (24 + d) 0 a b func := h ▸ fields_packWord g hm (by omega) ha hb (by omega)
  refine ⟨f.major, ?_, f.guard, by rw [rs1Of, f.b], by rw [rs2Of, f.c]⟩
  rw [f.func]
  omega

end formats

/-! ### Decoding an encoded instruction -/

/-- What the decoder answers for the words of an instruction. -/
def Instr.decoded (i : Instr) : Except Illegal Instr :=
  match encode i with
  | [w] => decode w 0
  | [w, long] => decode w long
  | _ => .error .majorOpcode

theorem decoded_eq (i : Instr) : i.decoded = .ok i := by
  cases i with
  | add | sub | xor | sl | sr | sra | or | and | nor | shadd | shadd2 =>
    simp (disch := omega) only [Instr.decoded, encode, decode, decodeAlu, decodeAluR, read_aluR rfl]
  | mul | mulu => simp (disch := omega) only [Instr.decoded, encode, decode, decodeAlu, decodeMultiply, read_aluM rfl]
  | cmpeq | cmpneq | cmplt | cmple | cmpult | cmpule | btest =>
    simp (disch := omega) only [Instr.decoded, encode, decode, decodeAlu, decodeCompare, read_aluC rfl]
  | cmpeqi | cmpneqi | cmplti | cmplei | cmpulti | cmpulei | btesti =>
    simp (disch := omega) only [Instr.decoded, encode, decode, decodeAlu, decodeCompareImm, read_aluCi rfl]
  | por | pand | pxor =>
    simp (disch := omega) only [Instr.decoded, encode, decode, decodeAlu, decodePredicate, read_aluP rfl]
  | bcopy => simp (disch := omega) only [Instr.decoded, encode, decode, decodeAlu, read_aluB rfl]
  | mts => simp only [Instr.decoded, encode, decode, decodeSpecial, read_spcT rfl]
  | mfs => simp only [Instr.decoded, encode, decode, decodeSpecial, read_spcF rfl]
  | addi | subi | xori | sli | sri | srai | ori | andi =>
    simp (disch := omega) only [Instr.decoded, encode, decode, read_aluI rfl]
  | addl | subl | xorl | sll | srl | sral | orl | andl | norl | shaddl | shadd2l =>
    simp (disch := omega) only [Instr.decoded, encode, decode, decodeLong, decodeLongFunction, read_aluL rfl]
    simp
  | lws | lwl | lwc | lwm | lhs | lhl | lhc | lhm | lbs | lbl | lbc | lbm | lhus | lhul | lhuc | lhum | lbus | lbul
  | lbuc | lbum => simp (disch := omega) only [Instr.decoded, encode, decode, decodeLoad, read_ldt rfl]
  | sws | swl | swc | swm | shs | shl | shc | shm | sbs | sbl | sbc | sbm =>
    simp (disch := omega) only [Instr.decoded, encode, decode, decodeStore, read_stt rfl]
  | sres | sens | sfree | sspill =>
    simp (disch := omega) only [Instr.decoded, encode, decode, decodeStack, read_stcI rfl]
  | sensR | sspillR =>
    simp (disch := omega) only [Instr.decoded, encode, decode, decodeStack, read_stcR rfl]
  | callnd | call | brnd | br | brcfnd | brcf | trap =>
    simp (disch := omega) only [Instr.decoded, encode, decode, decodeCflI, read_cflI rfl]
  | retnd | xretnd | callndR | brndR | brcfndR =>
    simp (disch := omega) only [Instr.decoded, encode, decode, decodeCflNd, read_cflR rfl, Fin.ofNat_val_eq_self]
  | ret | xret | callR | brR | brcfR =>
    simp (disch := omega) only [Instr.decoded, encode, decode, decodeCflD, read_cflR rfl, Fin.ofNat_val_eq_self]

/-! ### The bytes of an instruction -/

theorem wordOfBytes_bytesOfWord (w : Word) :
    wordOfBytes (w.extractLsb' 24 8) (w.extractLsb' 16 8) (w.extractLsb' 8 8) (w.extractLsb' 0 8) = w :=
  (Machine.wordOf_four _ _ _ _).symm.trans (Machine.wordOf_bytesOf_four w)

theorem decodeBytes_of_short {w : Word} {i : Instr} (short : (sizeFlag w && bits w 22 5 == 31) = false)
    (h : decode w 0 = .ok i) (rest : List Byte) : decodeBytes (bytesOfWord w ++ rest) = .ok (i, rest) := by
  simp only [bytesOfWord, List.cons_append, List.nil_append, decodeBytes, wordOfBytes_bytesOfWord, short, h,
    Bool.false_eq_true, if_false]

theorem decodeBytes_of_long {w long : Word} {i : Instr} (two : (sizeFlag w && bits w 22 5 == 31) = true)
    (h : decode w long = .ok i) (rest : List Byte) :
    decodeBytes (bytesOfWord w ++ (bytesOfWord long ++ rest)) = .ok (i, rest) := by
  simp only [bytesOfWord, List.cons_append, List.nil_append, decodeBytes, wordOfBytes_bytesOfWord, two, h, if_true]

/-! ### The rows of the opcode table -/

/-- A field whose bits a mask keeps is a field of the masked word. -/
theorem bits_and (w m : Word) {lo n : Nat} (kept : bits m lo n = 2 ^ n - 1) : bits (w &&& m) lo n = bits w lo n := by
  have field (v : Word) : bits v lo n = (v.toNat >>> lo) % 2 ^ n := by rw [bits, Nat.shiftRight_eq_div_pow]
  rw [field] at kept
  rw [field, field, BitVec.toNat_and, Nat.shiftRight_and_distrib, Nat.and_mod_two_pow, kept,
    Nat.and_two_pow_sub_one_eq_mod, Nat.mod_mod]

/-- A word masked to one field. -/
theorem and_field (w : Word) (lo n : Nat) :
    w &&& BitVec.ofNat 32 ((2 ^ n - 1) * 2 ^ lo) = BitVec.ofNat 32 (bits w lo n * 2 ^ lo) := by
  apply BitVec.eq_of_getLsbD_eq
  intro k hk
  have bit : (bits w lo n).testBit (k - lo) = (decide (k - lo < n) && w.toNat.testBit (lo + (k - lo))) := by
    rw [bits, Nat.testBit_mod_two_pow, Nat.testBit_div_two_pow, Nat.add_comm]
  simp only [BitVec.getLsbD_and, BitVec.getLsbD_ofNat, hk, decide_true, Bool.true_and, Nat.testBit_mul_two_pow,
    Nat.testBit_two_pow_sub_one, bit]
  by_cases low : lo ≤ k
  · simp [low, Bool.and_comm, BitVec.getLsbD]
  · simp [low]

/-! Each mask of the opcode table keeps the fields that the decoder selects by. -/

theorem and_major (w : Word) : w &&& 0x07c00000 = BitVec.ofNat 32 (bits w 22 5 * 2 ^ 22) := and_field w 22 5

theorem and_alu (w : Word) : w &&& 0x07c0007f = BitVec.ofNat 32 (bits w 22 5 * 2 ^ 22) |||
    BitVec.ofNat 32 (bits w 4 3 * 2 ^ 4) ||| BitVec.ofNat 32 (bits w 0 4 * 2 ^ 0) := by
  rw [← and_field, ← and_field, ← and_field, ← BitVec.and_or_distrib_left, ← BitVec.and_or_distrib_left]
  rfl

theorem and_aluL (w : Word) : w &&& 0x87c0007f = BitVec.ofNat 32 (bits w 31 1 * 2 ^ 31) |||
    BitVec.ofNat 32 (bits w 22 5 * 2 ^ 22) ||| BitVec.ofNat 32 (bits w 4 3 * 2 ^ 4) |||
    BitVec.ofNat 32 (bits w 0 4 * 2 ^ 0) := by
  rw [← and_field, ← and_field, ← and_field, ← and_field, ← BitVec.and_or_distrib_left,
    ← BitVec.and_or_distrib_left, ← BitVec.and_or_distrib_left]
  rfl

theorem and_opc (w : Word) : w &&& 0x07c00070 = BitVec.ofNat 32 (bits w 22 5 * 2 ^ 22) |||
    BitVec.ofNat 32 (bits w 4 3 * 2 ^ 4) := by
  rw [← and_field, ← and_field, ← BitVec.and_or_distrib_left]
  rfl

theorem and_ldt (w : Word) : w &&& 0x07c00f80 = BitVec.ofNat 32 (bits w 22 5 * 2 ^ 22) |||
    BitVec.ofNat 32 (bits w 7 5 * 2 ^ 7) := by
  rw [← and_field, ← and_field, ← BitVec.and_or_distrib_left]
  rfl

theorem and_stt (w : Word) : w &&& 0x07fe0000 = BitVec.ofNat 32 (bits w 22 5 * 2 ^ 22) |||
    BitVec.ofNat 32 (bits w 17 5 * 2 ^ 17) := by
  rw [← and_field, ← and_field, ← BitVec.and_or_distrib_left]
  rfl

theorem and_stc (w : Word) : w &&& 0x07fc0000 = BitVec.ofNat 32 (bits w 22 5 * 2 ^ 22) |||
    BitVec.ofNat 32 (bits w 18 4 * 2 ^ 18) := by
  rw [← and_field, ← and_field, ← BitVec.and_or_distrib_left]
  rfl

theorem and_cflR (w : Word) : w &&& 0x07c0000f = BitVec.ofNat 32 (bits w 22 5 * 2 ^ 22) |||
    BitVec.ofNat 32 (bits w 0 4 * 2 ^ 0) := by
  rw [← and_field, ← and_field, ← BitVec.and_or_distrib_left]
  rfl

/-! ### What each decoder accepts: words of its format that match the row -/

/-- `w` is a word of the row of `i`, and of the format `f`. -/
def Instr.Row (i : Instr) (f : Format) (w : Word) : Prop := i.format = f ∧ w &&& i.row.2 = i.row.1

section rows
variable {w : Word} {i : Instr}

theorem decodeAluR_row (major : bits w 22 5 = 8) (opc : bits w 4 3 = 0) (h : decodeAluR w = .ok i) :
    i.Row .aluR w := by
  unfold decodeAluR at h
  split at h <;> rename_i func <;> cases h <;> exact ⟨rfl, (and_alu w).trans (by rw [major, opc, func]; rfl)⟩

theorem decodeMultiply_row (major : bits w 22 5 = 8) (opc : bits w 4 3 = 2) (h : decodeMultiply w = .ok i) :
    i.Row .aluM w := by
  unfold decodeMultiply at h
  split at h <;> rename_i func <;> cases h <;> exact ⟨rfl, (and_alu w).trans (by rw [major, opc, func]; rfl)⟩

theorem decodeCompare_row (major : bits w 22 5 = 8) (opc : bits w 4 3 = 3) (h : decodeCompare w = .ok i) :
    i.Row .aluC w := by
  unfold decodeCompare at h
  split at h <;> rename_i func <;> cases h <;> exact ⟨rfl, (and_alu w).trans (by rw [major, opc, func]; rfl)⟩

theorem decodeCompareImm_row (major : bits w 22 5 = 8) (opc : bits w 4 3 = 6) (h : decodeCompareImm w = .ok i) :
    i.Row .aluCi w := by
  unfold decodeCompareImm at h
  split at h <;> rename_i func <;> cases h <;> exact ⟨rfl, (and_alu w).trans (by rw [major, opc, func]; rfl)⟩

theorem decodePredicate_row (major : bits w 22 5 = 8) (opc : bits w 4 3 = 4) (h : decodePredicate w = .ok i) :
    i.Row .aluP w := by
  unfold decodePredicate at h
  split at h <;> rename_i func <;> cases h <;> exact ⟨rfl, (and_alu w).trans (by rw [major, opc, func]; rfl)⟩

theorem decodeLongFunction_row {long : Word} (flag : bits w 31 1 = 1) (major : bits w 22 5 = 31)
    (opc : bits w 4 3 = 0) (h : decodeLongFunction w long = .ok i) : i.Row .aluL w := by
  unfold decodeLongFunction at h
  split at h <;> rename_i func <;> cases h <;>
    exact ⟨rfl, (and_aluL w).trans (by rw [flag, major, opc, func]; rfl)⟩

theorem decodeLoad_row (major : bits w 22 5 = 10) (h : decodeLoad w = .ok i) : i.Row .ldt w := by
  unfold decodeLoad at h
  split at h <;> rename_i type <;> cases h <;> exact ⟨rfl, (and_ldt w).trans (by rw [major, type]; rfl)⟩

theorem decodeStore_row (major : bits w 22 5 = 11) (h : decodeStore w = .ok i) : i.Row .stt w := by
  unfold decodeStore at h
  split at h <;> rename_i type <;> cases h <;> exact ⟨rfl, (and_stt w).trans (by rw [major, type]; rfl)⟩

/-- The form is the low half of the field that selects the instruction. -/
theorem decodeStack_row (major : bits w 22 5 = 12) (h : decodeStack w = .ok i) :
    i.Row (if bits w 18 2 = 0 then .stcI else .stcR) w ∧ bits w 18 2 < 2 := by
  have form := bits_low w 18 2 2
  unfold decodeStack at h
  split at h <;> rename_i op <;> cases h <;> rw [op] at form <;>
    exact ⟨⟨by rw [form]; rfl, (and_stc w).trans (by rw [major, op]; rfl)⟩, by omega⟩

theorem decodeCflI_row (major : 16 ≤ bits w 22 5 ∧ bits w 22 5 < 24) (h : decodeCflI w = .ok i) : i.Row .cflI w := by
  have fields : bits w 22 5 = bits w 22 3 + 8 * bits w 25 2 := bits_add w 22 3 2
  unfold decodeCflI at h
  split at h <;> rename_i op <;> cases h <;>
    exact ⟨rfl, (and_major w).trans (by rw [show bits w 22 5 = 16 + bits w 22 3 by omega, op]; rfl)⟩

/-- The format of a CFLr word, by its bits 3:2 (30_encoding R145 to R147). -/
def cflFormat (w : Word) : Option Format :=
  if bits w 2 2 = 0 then some .cflRi else if bits w 2 2 = 1 then some .cflRs else if bits w 2 2 = 2 then some .cflRt
  else none

theorem formatOf_cflR (major : bits w 22 5 = 24 ∨ bits w 22 5 = 25) : formatOf w = cflFormat w := by
  have form := bits_lt w 2 2
  obtain e | e | e | e : bits w 2 2 = 0 ∨ bits w 2 2 = 1 ∨ bits w 2 2 = 2 ∨ bits w 2 2 = 3 := by omega
  all_goals obtain major | major := major <;> simp [formatOf, cflFormat, major, e]

theorem decodeCflNd_row (major : bits w 22 5 = 24) (h : decodeCflNd w = .ok i) :
    cflFormat w = some i.format ∧ w &&& i.row.2 = i.row.1 := by
  have form := bits_high w 0 2 2
  unfold decodeCflNd at h
  split at h <;> rename_i op <;> cases h <;> rw [op] at form <;>
    exact ⟨by rw [cflFormat, form]; rfl, (and_cflR w).trans (by rw [major, op]; rfl)⟩

theorem decodeCflD_row (major : bits w 22 5 = 25) (h : decodeCflD w = .ok i) :
    cflFormat w = some i.format ∧ w &&& i.row.2 = i.row.1 := by
  have form := bits_high w 0 2 2
  unfold decodeCflD at h
  split at h <;> rename_i op <;> cases h <;> rw [op] at form <;>
    exact ⟨by rw [cflFormat, form]; rfl, (and_cflR w).trans (by rw [major, op]; rfl)⟩

theorem decodeLong_row {long : Word} (major : bits w 22 5 = 31) (h : decodeLong w long = .ok i) :
    i.Row .aluL w ∧ sizeFlag w = true := by
  unfold decodeLong at h
  split at h
  · rename_i assigned
    obtain ⟨flag, opc⟩ : sizeFlag w = true ∧ bits w 4 3 = 0 := by simpa using assigned
    exact ⟨decodeLongFunction_row (by simpa [sizeFlag] using flag) major opc h, flag⟩
  · cases h

theorem decodeAlu_row (major : bits w 22 5 = 8) (h : decodeAlu w = .ok i) :
    formatOf w = some i.format ∧ w &&& i.row.2 = i.row.1 := by
  have format {f : Format} (row : i.Row f w) (sel : formatOf w = some f) :
      formatOf w = some i.format ∧ w &&& i.row.2 = i.row.1 := ⟨row.1 ▸ sel, row.2⟩
  unfold decodeAlu at h
  split at h <;> rename_i opc
  · exact format (decodeAluR_row major opc h) (by simp only [formatOf, major, opc])
  · exact format (decodeMultiply_row major opc h) (by simp only [formatOf, major, opc])
  · exact format (decodeCompare_row major opc h) (by simp only [formatOf, major, opc])
  · exact format (decodePredicate_row major opc h) (by simp only [formatOf, major, opc])
  · cases h
    exact ⟨by simp only [formatOf, major, opc]; rfl, (and_opc w).trans (by rw [major, opc]; rfl)⟩
  · exact format (decodeCompareImm_row major opc h) (by simp only [formatOf, major, opc])
  · cases h

/-- A word that decodes matches its instruction's row, and its major opcode and class bits select the format. -/
theorem decode_row {long : Word} (h : decode w long = .ok i) :
    formatOf w = some i.format ∧ w &&& i.row.2 = i.row.1 := by
  unfold decode at h
  split at h <;> rename_i major
  case h_1 | h_2 | h_3 | h_4 | h_5 | h_6 | h_7 | h_8 =>
    cases h
    exact ⟨by simp only [formatOf, major]; rfl, (and_major w).trans (by rw [major]; rfl)⟩
  case h_9 => exact decodeAlu_row major h
  case h_10 =>
    unfold decodeSpecial at h
    split at h <;> rename_i opc <;> cases h <;>
      exact ⟨by simp only [formatOf, major, opc]; rfl, (and_opc w).trans (by rw [major, opc]; rfl)⟩
  case h_11 =>
    obtain ⟨format, row⟩ := decodeLoad_row major h
    exact ⟨by simp only [formatOf, major, format], row⟩
  case h_12 =>
    obtain ⟨format, row⟩ := decodeStore_row major h
    exact ⟨by simp only [formatOf, major, format], row⟩
  case h_13 =>
    obtain ⟨⟨format, row⟩, form⟩ := decodeStack_row major h
    refine ⟨?_, row⟩
    obtain form | form : bits w 18 2 = 0 ∨ bits w 18 2 = 1 := by omega
    · simp only [formatOf, major, format, form, if_true]
    · simp only [formatOf, major, format, form]; rfl
  case h_14 | h_15 | h_16 | h_17 | h_18 | h_19 | h_20 | h_21 =>
    obtain ⟨format, row⟩ := decodeCflI_row (by omega) h
    exact ⟨by simp only [formatOf, major, format], row⟩
  case h_22 =>
    rw [formatOf_cflR (.inl major)]
    exact decodeCflNd_row major h
  case h_23 =>
    rw [formatOf_cflR (.inr major)]
    exact decodeCflD_row major h
  case h_24 =>
    obtain ⟨⟨format, row⟩, -⟩ := decodeLong_row major h
    exact ⟨by simp only [formatOf, major, format], row⟩
  case h_25 => cases h

theorem formatOf_aluL_iff : formatOf w = some .aluL ↔ bits w 22 5 = 31 := by
  refine ⟨fun h => ?_, fun major => by simp only [formatOf, major]⟩
  unfold formatOf at h
  split at h
  case h_24 => assumption
  case h_9 | h_10 | h_13 | h_22 | h_23 => split at h <;> cases h
  all_goals cases h

end rows

/-! ### The words that match a row decode -/

/-- A word that matches `v` under the mask `m` has the fields of `v` that `m` keeps. -/
theorem bits_of_and {w m v : Word} (h : w &&& m = v) {lo n : Nat} (kept : bits m lo n = 2 ^ n - 1) :
    bits w lo n = v.toNat / 2 ^ lo % 2 ^ n := by
  rw [← bits_and w m kept, h, bits]

section matching
variable {w v : Word}

theorem bits_of_alu (h : w &&& 0x07c0007f = v) : bits w 22 5 = v.toNat / 2 ^ 22 % 2 ^ 5 ∧
    bits w 4 3 = v.toNat / 2 ^ 4 % 2 ^ 3 ∧ bits w 0 4 = v.toNat / 2 ^ 0 % 2 ^ 4 :=
  ⟨bits_of_and h rfl, bits_of_and h rfl, bits_of_and h rfl⟩

theorem bits_of_opc (h : w &&& 0x07c00070 = v) : bits w 22 5 = v.toNat / 2 ^ 22 % 2 ^ 5 ∧
    bits w 4 3 = v.toNat / 2 ^ 4 % 2 ^ 3 :=
  ⟨bits_of_and h rfl, bits_of_and h rfl⟩

theorem bits_of_aluL (h : w &&& 0x87c0007f = v) : bits w 31 1 = v.toNat / 2 ^ 31 % 2 ^ 1 ∧
    bits w 22 5 = v.toNat / 2 ^ 22 % 2 ^ 5 ∧ bits w 4 3 = v.toNat / 2 ^ 4 % 2 ^ 3 ∧
    bits w 0 4 = v.toNat / 2 ^ 0 % 2 ^ 4 :=
  ⟨bits_of_and h rfl, bits_of_and h rfl, bits_of_and h rfl, bits_of_and h rfl⟩

theorem bits_of_ldt (h : w &&& 0x07c00f80 = v) : bits w 22 5 = v.toNat / 2 ^ 22 % 2 ^ 5 ∧
    bits w 7 5 = v.toNat / 2 ^ 7 % 2 ^ 5 :=
  ⟨bits_of_and h rfl, bits_of_and h rfl⟩

theorem bits_of_stt (h : w &&& 0x07fe0000 = v) : bits w 22 5 = v.toNat / 2 ^ 22 % 2 ^ 5 ∧
    bits w 17 5 = v.toNat / 2 ^ 17 % 2 ^ 5 :=
  ⟨bits_of_and h rfl, bits_of_and h rfl⟩

theorem bits_of_stc (h : w &&& 0x07fc0000 = v) : bits w 22 5 = v.toNat / 2 ^ 22 % 2 ^ 5 ∧
    bits w 18 4 = v.toNat / 2 ^ 18 % 2 ^ 4 :=
  ⟨bits_of_and h rfl, bits_of_and h rfl⟩

theorem bits_of_major (h : w &&& 0x07c00000 = v) : bits w 22 5 = v.toNat / 2 ^ 22 % 2 ^ 5 ∧
    bits w 22 3 = v.toNat / 2 ^ 22 % 2 ^ 3 :=
  ⟨bits_of_and h rfl, bits_of_and h rfl⟩

theorem bits_of_cflR (h : w &&& 0x07c0000f = v) : bits w 22 5 = v.toNat / 2 ^ 22 % 2 ^ 5 ∧
    bits w 0 4 = v.toNat / 2 ^ 0 % 2 ^ 4 :=
  ⟨bits_of_and h rfl, bits_of_and h rfl⟩

end matching

theorem decode_of_row {i : Instr} {w : Word} (h : w &&& i.row.2 = i.row.1) (long : Word) :
    ∃ j, decode w long = .ok j ∧ j.row = i.row := by
  cases i with
  | add | sub | xor | sl | sr | sra | or | and | nor | shadd | shadd2 =>
    have fields := bits_of_alu h
    simp [Instr.row] at fields
    simp only [decode, decodeAlu, decodeAluR, fields]
    exact ⟨_, rfl, rfl⟩
  | mul | mulu =>
    have fields := bits_of_alu h
    simp [Instr.row] at fields
    simp only [decode, decodeAlu, decodeMultiply, fields]
    exact ⟨_, rfl, rfl⟩
  | cmpeq | cmpneq | cmplt | cmple | cmpult | cmpule | btest =>
    have fields := bits_of_alu h
    simp [Instr.row] at fields
    simp only [decode, decodeAlu, decodeCompare, fields]
    exact ⟨_, rfl, rfl⟩
  | cmpeqi | cmpneqi | cmplti | cmplei | cmpulti | cmpulei | btesti =>
    have fields := bits_of_alu h
    simp [Instr.row] at fields
    simp only [decode, decodeAlu, decodeCompareImm, fields]
    exact ⟨_, rfl, rfl⟩
  | por | pand | pxor =>
    have fields := bits_of_alu h
    simp [Instr.row] at fields
    simp only [decode, decodeAlu, decodePredicate, fields]
    exact ⟨_, rfl, rfl⟩
  | bcopy =>
    have fields := bits_of_opc h
    simp [Instr.row] at fields
    simp only [decode, decodeAlu, fields]
    exact ⟨_, rfl, rfl⟩
  | mts | mfs =>
    have fields := bits_of_opc h
    simp [Instr.row] at fields
    simp only [decode, decodeSpecial, fields]
    exact ⟨_, rfl, rfl⟩
  | addi | subi | xori | sli | sri | srai | ori | andi =>
    have fields := bits_of_major h
    simp [Instr.row] at fields
    simp only [decode, fields]
    exact ⟨_, rfl, rfl⟩
  | addl | subl | xorl | sll | srl | sral | orl | andl | norl | shaddl | shadd2l =>
    have fields := bits_of_aluL h
    simp [Instr.row] at fields
    simp only [decode, decodeLong, sizeFlag, decodeLongFunction, fields]
    exact ⟨_, rfl, rfl⟩
  | lws | lwl | lwc | lwm | lhs | lhl | lhc | lhm | lbs | lbl | lbc | lbm | lhus | lhul | lhuc | lhum | lbus | lbul
  | lbuc | lbum =>
    have fields := bits_of_ldt h
    simp [Instr.row] at fields
    simp only [decode, decodeLoad, fields]
    exact ⟨_, rfl, rfl⟩
  | sws | swl | swc | swm | shs | shl | shc | shm | sbs | sbl | sbc | sbm =>
    have fields := bits_of_stt h
    simp [Instr.row] at fields
    simp only [decode, decodeStore, fields]
    exact ⟨_, rfl, rfl⟩
  | sres | sens | sfree | sspill | sensR | sspillR =>
    have fields := bits_of_stc h
    simp [Instr.row] at fields
    simp only [decode, decodeStack, fields]
    exact ⟨_, rfl, rfl⟩
  | callnd | call | brnd | br | brcfnd | brcf | trap =>
    have fields := bits_of_major h
    simp [Instr.row] at fields
    simp only [decode, decodeCflI, fields]
    exact ⟨_, rfl, rfl⟩
  | retnd | xretnd | callndR | brndR | brcfndR =>
    have fields := bits_of_cflR h
    simp [Instr.row] at fields
    simp only [decode, decodeCflNd, fields]
    exact ⟨_, rfl, rfl⟩
  | ret | xret | callR | brR | brcfR =>
    have fields := bits_of_cflR h
    simp [Instr.row] at fields
    simp only [decode, decodeCflD, fields]
    exact ⟨_, rfl, rfl⟩

/-! ### The obligations -/

/-- Settles O2: each decoder accepts a word with the fields that its row's mask keeps, and a word with these fields is
read as an instruction of that row. -/
theorem decodeFollowsOpcodeTable : Obligations.DecodeFollowsOpcodeTable := by
  unfold Obligations.DecodeFollowsOpcodeTable
  exact fun w long i => ⟨fun h => (decode_row h).2, fun h => decode_of_row h long⟩

theorem sizeFlag_of_aluL {w long : Word} {i : Instr} (h : decode w long = .ok i) (two : i.format = .aluL) :
    (sizeFlag w && bits w 22 5 == 31) = true := by
  have major := formatOf_aluL_iff.1 (two ▸ (decode_row h).1)
  simp only [decode, major] at h
  simp [(decodeLong_row major h).2, major]

theorem short_of_not_aluL {w long : Word} {i : Instr} (h : decode w long = .ok i) (one : i.format ≠ .aluL) :
    (sizeFlag w && bits w 22 5 == 31) = false := by
  have major : bits w 22 5 ≠ 31 := fun e =>
    one (Option.some.inj ((decode_row h).1.symm.trans (formatOf_aluL_iff.2 e)))
  simp [major]

/-- An instruction has one word, or it is of the format ALUl and has two (30_encoding R130). -/
theorem encode_eq (i : Instr) : (i.format ≠ .aluL ∧ ∃ w, encode i = [w]) ∨
    (i.format = .aluL ∧ ∃ w long, encode i = [w, long]) := by
  cases i with
  | addl | subl | xorl | sll | srl | sral | orl | andl | norl | shaddl | shadd2l => exact .inr ⟨rfl, _, _, rfl⟩
  | _ => exact .inl ⟨nofun, _, rfl⟩

/-- Settles O1: the bytes of an instruction are those of its one or two words, and the decoder reads each field of these
back. -/
theorem decodeInvertsEncode : Obligations.DecodeInvertsEncode := by
  unfold Obligations.DecodeInvertsEncode
  intro i rest
  have read := decoded_eq i
  obtain ⟨one, w, e⟩ | ⟨two, w, long, e⟩ := encode_eq i
  · simp only [Instr.decoded, e] at read
    simpa [encodeBytes, e] using decodeBytes_of_short (short_of_not_aluL read one) read rest
  · simp only [Instr.decoded, e] at read
    simpa [encodeBytes, e] using decodeBytes_of_long (sizeFlag_of_aluL read two) read rest

/-- Settles O4: each word is evaluated. -/
theorem decodeOfWrittenWords : Obligations.DecodeOfWrittenWords := by
  unfold Obligations.DecodeOfWrittenWords
  exact ⟨rfl, rfl, rfl, rfl, rfl, rfl, rfl, rfl, rfl, rfl, rfl⟩

/-- Settles O5: the low three bits name the register, the top one inverts it. -/
theorem predicateOperandEncoding : Obligations.PredicateOperandEncoding := by
  unfold Obligations.PredicateOperandEncoding
  intro s n
  have top : (PredOp.ofCode n.val).neg = decide (8 ≤ n.val) := by
    rw [PredOp.ofCode, Bool.eq_iff_iff, beq_iff_eq, decide_eq_true_eq]
    omega
  have reg : (PredOp.ofCode n.val).reg = Fin.ofNat 8 (n.val % 8) := Fin.ext (by simp [PredOp.ofCode])
  refine ⟨by rw [Machine.State.ps, top, reg], ?_⟩
  rw [PredOp.code, top, reg, Fin.val_ofNat]
  by_cases high : 8 ≤ n.val
  · rw [decide_eq_true high, if_pos rfl]
    omega
  · rw [decide_eq_false high, if_neg Bool.false_ne_true]
    omega

end Sys2Proof
end

section
/-! PROOFS. What a step can do, said once; and what every step keeps: the configuration, the boot ROMs and the invariant
of the machine (00_scope R5; 10_state R22, R36 to R38; 20_memory R64, R69). -/
namespace Sys2Proof.Machine

/-! ### What the instructions of a bundle can do -/

/-- What the instructions of a bundle that answer a next state did. -/
inductive Ran (s : State) : State → Prop where
  /-- A disabled word that does not decode did nothing. -/
  | idle : Ran s s
  /-- One instruction took effect. -/
  | one (i : Instr) (t : State) (did : Effect i s t) : Ran s t
  /-- The one destination of a second instruction is written beside what the first did. -/
  | pair (i j : Instr) (on : Bool) (t u : State) (did : Effect i s t) (unentered : t.excEntered = false) :
      Ran s (joinSecond on j t u)
  /-- A fault of the fetch or of the decoder entered its handler. -/
  | raised (n : Fin 32) (t : State) (h : s.raise n = .next t) : Ran s t

theorem execPair_next {i j : Instr} {s t : State} (h : execPair i j s = .next t) : s.twoWriters i j = false ∧
    ((exec i s = .next t ∧ t.excEntered = true) ∨
      ∃ v u, exec i s = .next v ∧ v.excEntered = false ∧ exec j s = .next u ∧ t = joinSecond (s.enables j) j v u) := by
  obtain ⟨compatible, h⟩ := need_next h
  refine ⟨by simpa using compatible, ?_⟩
  split at h
  · rename_i v first
    split at h
    · rename_i entered
      cases h
      exact .inl ⟨first, entered⟩
    · rename_i unentered
      split at h
      · rename_i u second
        cases h
        exact .inr ⟨v, u, first, by simpa using unentered, second, rfl⟩
      · rename_i stops
        exact absurd h (stops t)
  · rename_i stops
    exact absurd h (stops t)

theorem Ran.ofPair {i j : Instr} {s t : State} (h : execPair i j s = .next t) : Ran s t := by
  obtain ⟨-, ⟨first, -⟩ | ⟨v, u, first, unentered, -, rfl⟩⟩ := execPair_next h
  · exact .one i t (exec_next first)
  · exact .pair i j _ v u (exec_next first) unentered

theorem runOne_next {s t : State} {w long : Word} (h : runOne s w long = .next t) : Ran s t := by
  unfold runOne at h
  split at h
  · exact .one _ t (exec_next h)
  · split at h
    · exact .raised 0 t h
    · cases h
      exact .idle

theorem refused_or_next {c : Prop} [Decidable c] {why : Refusal} {k : Result} {t : State}
    (h : (if c then .refused why else k) = .next t) : k = .next t := by
  split at h
  · cases h
  · exact h

theorem runTwo_next {s t : State} {w0 w1 : Word} (h : runTwo s w0 w1 = .next t) : Ran s t := by
  unfold runTwo at h
  have h := refused_or_next (refused_or_next h)
  split at h
  · exact .raised 0 t h
  split at h
  · exact .ofPair h
  · exact .one _ t (exec_next h)
  · exact .one _ t (exec_next h)
  · cases h
    exact .idle

/-! ### What the end of a bundle, and a step, can do -/

/-- What the end of a bundle does, from the state `t` that its instructions leave. -/
inductive Advanced (t : State) : Option Pending → State → Prop where
  /-- A handler was entered, and stands at its own address. -/
  | handler (was : Option Pending) (entered : t.excEntered = true) : Advanced t was (t.boundary t.pc)
  /-- The next bundle follows. -/
  | sequence (unentered : t.excEntered = false) : Advanced t none (t.boundary t.nextPc)
  /-- A delay slot ends, and another follows. -/
  | slot (p : Pending) (unentered : t.excEntered = false) (more : 1 < p.remaining) :
      Advanced t (some p) ({ t with pending := some { p with remaining := p.remaining - 1 } }.boundary t.nextPc)
  /-- The last delay slot ends, and the transfer happens. -/
  | transfer (p : Pending) (u : State) (unentered : t.excEntered = false) (last : p.remaining ≤ 1)
      (entered : t.complete p = .entered u) : Advanced t (some p) ({ u with pending := none }.boundary p.target)

theorem State.advance_next {t u : State} {was : Option Pending} (h : t.advance was = .next u) : Advanced t was u := by
  unfold State.advance at h
  split at h
  · rename_i entered
    cases h
    exact .handler was entered
  rename_i unentered
  rw [Bool.not_eq_true] at unentered
  split at h
  · cases h
    exact .sequence unentered
  · rename_i p
    split at h
    · rename_i last
      split at h
      · rename_i v entered
        cases h
        exact .transfer p v unentered last entered
      · cases h
      · cases h
    · rename_i more
      cases h
      exact .slot p unentered (by omega)

/-- A bundle was executed in the state `s`: its instructions ran from its beginning, and its end followed. -/
def Bundled (s u : State) : Prop :=
  ∃ (len : Word) (loaded multiplied : Bool) (t : State), (len = 4 ∨ len = 8) ∧ Ran (s.begin len) t ∧
    Advanced (t.endWindows loaded multiplied s.mulShadow) s.pending u

theorem State.finish_next {s u : State} {loaded multiplied : Bool} {r : Result}
    (h : s.finish loaded multiplied r = .next u) :
    ∃ t, r = .next t ∧ Advanced (t.endWindows loaded multiplied s.mulShadow) s.pending u := by
  unfold State.finish at h
  split at h
  · exact ⟨_, rfl, State.advance_next h⟩
  · rename_i stops
    exact absurd h (stops u)

theorem Bundled.ofFinish {s u : State} {len : Word} {loaded multiplied : Bool} {r : Result}
    (hl : len = 4 ∨ len = 8) (ran : ∀ t, r = .next t → Ran (s.begin len) t)
    (h : (s.begin len).finish loaded multiplied r = .next u) : Bundled s u := by
  obtain ⟨t, ht, advanced⟩ := State.finish_next h
  exact ⟨len, loaded, multiplied, t, hl, ran t ht, advanced⟩

theorem runWords_next {s u : State} {w0 : Word} {second : Option Word} (h : runWords s w0 second = .next u) :
    Bundled s u := by
  unfold runWords at h
  split at h
  · exact .ofFinish (.inl rfl) (fun _ => runOne_next) h
  · split at h
    · exact .ofFinish (.inr rfl) (fun _ => runOne_next) h
    · exact .ofFinish (.inr rfl) (fun _ => runTwo_next) h

theorem State.fetchFault_next {s u : State} (h : s.fetchFault = .next u) : Bundled s u :=
  .ofFinish (.inl rfl) (fun t ht => .raised 1 t ht) h

theorem State.secondFetchFault_next {s u : State} {w0 : Word} (h : s.secondFetchFault w0 = .next u) : Bundled s u := by
  unfold State.secondFetchFault at h
  split at h
  · exact .ofFinish (.inr rfl) (fun t ht => .raised 0 t ht) h
  · exact State.fetchFault_next h

theorem State.runEntered_next {s u : State} (h : s.runEntered = .next u) : Bundled s u := by
  unfold State.runEntered at h
  split at h
  · cases h
  · exact State.fetchFault_next h
  · split at h
    · split at h
      · cases h
      · exact State.secondFetchFault_next h
      · exact runWords_next h
    · exact runWords_next h

/-- What a step without its time can do. -/
inductive Acted (s : State) : State → Prop where
  /-- An interrupt is taken. -/
  | interrupt (i : Fin 16) (t : State) (taken : s.takeInterrupt i (s.cfg.intrBit i.val) = .next t) :
      Acted s (t.boundary t.pc)
  /-- A sleeping core sleeps on. -/
  | sleep : Acted s s
  /-- A bundle is executed. -/
  | bundle (u : State) (bundled : Bundled s u) : Acted s u
  /-- The block at `base` is entered, and a bundle is executed there. -/
  | first (t u : State) (entered : s.enterBlock s.base s.pc = .entered t) (bundled : Bundled t u) : Acted s u

theorem State.act_next {s u : State} (h : s.act = .next u) : Acted s u := by
  unfold State.act at h
  split at h
  · rename_i i _
    unfold State.enterInterrupt at h
    split at h
    · rename_i t taken
      cases h
      exact .interrupt i t taken
    · rename_i stops
      exact absurd h (stops u)
  split at h
  · cases h
    exact .sleep
  unfold State.runBundle at h
  split at h
  · rename_i t settled
    obtain ⟨-, ⟨-, rfl⟩ | ⟨-, entered⟩⟩ := State.settle_entered settled
    · exact .bundle u (State.runEntered_next h)
    · exact .first t u entered (State.runEntered_next h)
  · exact .bundle u (State.fetchFault_next h)
  · cases h

/-- A step is an act, and then time passes. -/
theorem step_next {s t : State} (h : step s = .next t) : ∃ u, Acted s u ∧ t = u.tick := by
  unfold step ticked at h
  split at h
  · rename_i u acted
    cases h
    exact ⟨u, State.act_next acted, rfl⟩
  · rename_i stops
    exact absurd h (stops t)

/-! ### The configuration and the boot ROMs -/

/-- The configuration and the boot ROMs are those of `s`. -/
structure SameRoms (s t : State) : Prop where
  cfg : t.cfg = s.cfg
  bootRom : t.mem.bootRom = s.mem.bootRom
  bootData : t.mem.bootData = s.mem.bootData

theorem SameRoms.trans {s t u : State} (h : SameRoms s t) (k : SameRoms t u) : SameRoms s u :=
  ⟨k.cfg.trans h.cfg, k.bootRom.trans h.bootRom, k.bootData.trans h.bootData⟩

theorem SameRoms.ofEntered {s u : State} {b x : Word} (h : s.enterBlock b x = .entered u) : SameRoms s u := by
  obtain ⟨-, n, m, rfl, -⟩ := State.enterBlock_entered h
  exact ⟨rfl, rfl, rfl⟩

theorem SameRoms.ofException {s t : State} {n : Fin 32} {ret : Word} (h : s.takeException n ret = .next t) :
    SameRoms s t := by
  obtain ⟨-, z, m, rfl, -⟩ := State.takeException_next h
  exact ⟨rfl, rfl, rfl⟩

theorem SameRoms.ofEffect {i : Instr} {s t : State} (h : Effect i s t) : SameRoms s t := by
  cases h with
  | disabled | product | stack | transfer | later => exact ⟨rfl, rfl, rfl⟩
  | register | predicate | special | load => exact ⟨by simp, by simp, by simp⟩
  | store _ _ frame =>
    obtain ⟨sc, mem, marks, exc, mmu, io, sl, rfl⟩ := frame.shape
    exact ⟨rfl, frame.bootRom, frame.bootData⟩
  | fault _ _ raised => exact .ofException (State.raise_next raised).2
  | trap _ _ _ _ _ _ _ _ _ entered => exact .ofException entered

theorem SameRoms.joinSecond (on : Bool) (j : Instr) (t u : State) : SameRoms t (joinSecond on j t u) := by
  unfold Machine.joinSecond
  split
  · split <;> exact ⟨by simp, by simp, by simp⟩
  · exact ⟨rfl, rfl, rfl⟩

theorem SameRoms.ofRan {s t : State} (h : Ran s t) : SameRoms s t := by
  cases h with
  | idle => exact ⟨rfl, rfl, rfl⟩
  | one _ _ did => exact .ofEffect did
  | pair _ _ _ _ _ did => exact (ofEffect did).trans (.joinSecond _ _ _ _)
  | raised _ _ h => exact .ofException (State.raise_next h).2

theorem SameRoms.ofComplete {s u : State} {p : Pending} (h : s.complete p = .entered u) : SameRoms s u := by
  obtain ⟨-, rfl⟩ | ⟨-, h⟩ | ⟨-, h⟩ | ⟨-, h⟩ := State.complete_entered h
  · exact ⟨rfl, rfl, rfl⟩
  · obtain ⟨cfg, bootRom, bootData⟩ := SameRoms.ofEntered h
    exact ⟨cfg, bootRom, bootData⟩
  · exact .ofEntered h
  · obtain ⟨cfg, bootRom, bootData⟩ := SameRoms.ofEntered h
    exact ⟨cfg, bootRom, bootData⟩

theorem SameRoms.ofAdvanced {t u : State} {was : Option Pending} (h : Advanced t was u) : SameRoms t u := by
  cases h with
  | handler | sequence | slot => exact ⟨rfl, rfl, rfl⟩
  | transfer _ _ _ _ entered => exact (ofComplete entered).trans ⟨rfl, rfl, rfl⟩

theorem SameRoms.ofBundled {s u : State} (h : Bundled s u) : SameRoms s u := by
  obtain ⟨len, loaded, multiplied, t, -, ran, advanced⟩ := h
  have middle : SameRoms s (t.endWindows loaded multiplied s.mulShadow) :=
    (show SameRoms s (s.begin len) from ⟨rfl, rfl, rfl⟩).trans ((ofRan ran).trans ⟨rfl, rfl, rfl⟩)
  exact middle.trans (.ofAdvanced advanced)

theorem SameRoms.ofActed {s u : State} (h : Acted s u) : SameRoms s u := by
  cases h with
  | interrupt i t taken =>
    obtain ⟨cfg, bootRom, bootData⟩ := SameRoms.ofException taken
    exact ⟨cfg, bootRom, bootData⟩
  | sleep => exact ⟨rfl, rfl, rfl⟩
  | bundle _ bundled => exact .ofBundled bundled
  | first _ _ entered bundled => exact (ofEntered entered).trans (.ofBundled bundled)

/-- Settles O12: nothing that a step can do changes the configuration or a boot ROM, and time does not. -/
theorem stepKeepsConfigurationAndRoms : Obligations.StepKeepsConfigurationAndRoms := by
  unfold Obligations.StepKeepsConfigurationAndRoms
  intro s t h
  obtain ⟨u, acted, rfl⟩ := step_next h
  obtain ⟨cfg, bootRom, bootData⟩ := SameRoms.ofActed acted
  exact ⟨by simpa using cfg, by simpa using bootRom, by simpa using bootData⟩

/-! ### The invariant -/

/-- What holds while the instructions of a bundle execute: as `State.Inv`, but the next bundle stands at `nextPc`, or
at `pc` once a handler is entered. -/
structure State.Running (s : State) : Prop where
  memories : s.memoriesWf
  nextAligned : s.excEntered = false → s.nextPc.toNat % 4 = 0
  handlerAligned : s.excEntered = true → s.pc.toNat % 4 = 0
  pendingOk : ∀ p, s.pending = some p → p.ok
  shadowOk : s.loadShadow ≠ some 0
  windowOk : s.mulShadow ≤ s.cfg.mulDelay

theorem State.memoriesWf_entered {s : State} (h : s.memoriesWf) {m : Marks} (dcStale : m.dcStale = s.marks.dcStale)
    (dcDirty : m.dcDirty = s.marks.dcDirty) (icStale : ∃ p : Host.Cell → Bool, m.icStale = s.marks.icStale.filter p)
    (ispmStale : m.ispmStale = []) : ({ s with marks := m } : State).memoriesWf := by
  obtain ⟨sc, gm, dspm, ispm, bootRom, bootData, stale, dirty, code, -⟩ := h
  obtain ⟨p, icStale⟩ := icStale
  refine ⟨sc, gm, dspm, ispm, bootRom, bootData, dcStale ▸ stale, dcDirty ▸ dirty, ?_, ?_⟩
  · exact icStale ▸ Memory.wf_filter _ p code
  · exact ispmStale ▸ Memory.wf_nil

theorem State.memoriesWf_enterBlock {s u : State} {b x : Word} (hs : s.memoriesWf) (h : s.enterBlock b x = .entered u) :
    u.memoriesWf := by
  obtain ⟨-, n, m, rfl, stale, dirty, code, ispm⟩ := State.enterBlock_entered h
  exact State.memoriesWf_entered hs stale dirty code ispm

theorem State.Running.ofException {s t : State} {n : Fin 32} {ret : Word} (hs : s.Running)
    (h : s.takeException n ret = .next t) : t.Running ∧ t.excEntered = true := by
  obtain ⟨aligned, z, m, rfl, stale, dirty, code, ispm⟩ := State.takeException_next h
  exact ⟨⟨State.memoriesWf_entered hs.memories stale dirty code ispm, nofun, fun _ => aligned, hs.pendingOk, nofun,
    hs.windowOk⟩, rfl⟩

theorem State.setReg_shape (s : State) (r : GReg) (v : Word) : ∃ regs, s.setReg r v = { s with regs := regs } := by
  unfold State.setReg
  split
  · exact ⟨s.regs, rfl⟩
  · exact ⟨_, rfl⟩

theorem State.setPred_shape (s : State) (p : PReg) (b : Bool) : ∃ preds, s.setPred p b = { s with preds := preds } := by
  unfold State.setPred
  split
  · exact ⟨s.preds, rfl⟩
  · exact ⟨_, rfl⟩

theorem State.setSpecial_shape (s : State) (n : SReg) (v : Word) :
    ∃ preds sp, s.setSpecial n v = { s with preds := preds, sp := sp } := by
  unfold State.setSpecial
  split <;> exact ⟨_, _, rfl⟩

theorem State.putLoaded_shape (s : State) (rd : GReg) (v : Word) :
    ∃ regs, s.putLoaded rd v = { s with regs := regs, loadShadow := if rd = 0 then none else some rd } := by
  obtain ⟨regs, e⟩ := s.setReg_shape rd v
  exact ⟨regs, by rw [State.putLoaded, e]⟩

theorem State.Running.ofEffect {i : Instr} {s t : State} (hs : s.Running) (h : Effect i s t) : t.Running := by
  obtain ⟨memories, next, handler, pending, shadow, window⟩ := hs
  cases h with
  | disabled => exact ⟨memories, next, handler, pending, shadow, window⟩
  | register rd v =>
    obtain ⟨regs, e⟩ := s.setReg_shape rd v
    exact e ▸ ⟨memories, next, handler, pending, shadow, window⟩
  | predicate pd b =>
    obtain ⟨preds, e⟩ := s.setPred_shape pd b
    exact e ▸ ⟨memories, next, handler, pending, shadow, window⟩
  | special n v =>
    obtain ⟨preds, sp, e⟩ := s.setSpecial_shape n v
    exact e ▸ ⟨memories, next, handler, pending, shadow, window⟩
  | product => exact ⟨memories, next, handler, pending, shadow, Nat.le_refl _⟩
  | load rd v io p =>
    obtain ⟨regs, e⟩ := State.putLoaded_shape { s with io := io, exc := { s.exc with pend := p } } rd v
    rw [e]
    refine ⟨memories, next, handler, pending, ?_, window⟩
    by_cases zero : rd = 0 <;> simp [zero]
  | store _ _ frame =>
    have memories := frame.wf memories
    obtain ⟨sc, mem, marks, exc, mmu, io, sl, rfl⟩ := frame.shape
    exact ⟨memories, next, handler, pending, shadow, window⟩
  | stack _ _ _ _ _ _ wf => exact ⟨wf memories, next, handler, pending, shadow, window⟩
  | transfer _ _ _ _ _ _ _ _ _ aligned marks =>
    refine ⟨?_, fun _ => aligned, handler, pending, shadow, window⟩
    obtain rfl | entered := marks
    · exact memories
    · exact State.memoriesWf_entered memories entered.dcStale entered.dcDirty entered.icStale entered.ispmStale
  | later _ _ _ ok =>
    refine ⟨memories, next, handler, fun p hp => ?_, shadow, window⟩
    cases hp
    exact ok
  | fault _ _ raised =>
    exact (State.Running.ofException ⟨memories, next, handler, pending, shadow, window⟩ (State.raise_next raised).2).1
  | trap _ _ _ _ _ _ _ _ _ entered =>
    exact (State.Running.ofException ⟨memories, next, handler, pending, shadow, window⟩ entered).1

theorem joinSecond_shape (on : Bool) (j : Instr) (t u : State) :
    ∃ regs preds, joinSecond on j t u = { t with regs := regs, preds := preds } := by
  unfold joinSecond
  split
  · split
    · obtain ⟨regs, e⟩ := t.setReg_shape _ _
      exact ⟨regs, t.preds, e⟩
    · obtain ⟨preds, e⟩ := t.setPred_shape _ _
      exact ⟨t.regs, preds, e⟩
    · exact ⟨t.regs, t.preds, rfl⟩
  · exact ⟨t.regs, t.preds, rfl⟩

theorem State.Running.ofRan {s t : State} (hs : s.Running) (h : Ran s t) : t.Running := by
  cases h with
  | idle => exact hs
  | one _ _ did => exact hs.ofEffect did
  | pair i j on v u did =>
    obtain ⟨memories, next, handler, pending, shadow, window⟩ := hs.ofEffect did
    obtain ⟨regs, preds, e⟩ := joinSecond_shape on j v u
    exact e ▸ ⟨memories, next, handler, pending, shadow, window⟩
  | raised _ _ h => exact (hs.ofException (State.raise_next h).2).1

theorem State.Running.endWindows {t : State} (ht : t.Running) (loaded multiplied : Bool) {before : Nat}
    (hb : before ≤ t.cfg.mulDelay) : (t.endWindows loaded multiplied before).Running := by
  obtain ⟨memories, next, handler, pending, shadow, window⟩ := ht
  refine ⟨memories, next, handler, pending, ?_, ?_⟩
  · unfold State.endWindows
    simp only
    split
    · exact shadow
    · exact nofun
  · unfold State.endWindows
    simp only
    split
    · exact window
    · omega

theorem State.Running.ofComplete {s u : State} {p : Pending} (hs : s.Running) (h : s.complete p = .entered u) :
    u.memoriesWf ∧ u.loadShadow ≠ some 0 ∧ u.mulShadow ≤ u.cfg.mulDelay := by
  obtain ⟨-, rfl⟩ | ⟨-, h⟩ | ⟨-, h⟩ | ⟨-, h⟩ := State.complete_entered h
  · exact ⟨hs.memories, hs.shadowOk, hs.windowOk⟩
  all_goals
    refine ⟨State.memoriesWf_enterBlock (by exact hs.memories) h, ?_⟩
    obtain ⟨-, z, m, rfl, -⟩ := State.enterBlock_entered h
    exact ⟨hs.shadowOk, hs.windowOk⟩

/-- The end of a bundle makes the invariant hold again. -/
theorem State.Inv.ofAdvanced {t u : State} {was : Option Pending} (ht : t.Running) (hw : ∀ p, was = some p → p.ok)
    (h : Advanced t was u) : u.Inv := by
  cases h with
  | handler _ entered =>
    exact ⟨ht.memories, ht.handlerAligned entered, rfl, rfl, ht.pendingOk, ht.shadowOk, ht.windowOk⟩
  | sequence unentered =>
    exact ⟨ht.memories, ht.nextAligned unentered, rfl, rfl, ht.pendingOk, ht.shadowOk, ht.windowOk⟩
  | slot p unentered more =>
    refine ⟨ht.memories, ht.nextAligned unentered, rfl, rfl, fun q hq => ?_, ht.shadowOk, ht.windowOk⟩
    obtain ⟨-, few, aligned⟩ := hw p rfl
    cases hq
    exact ⟨by simp only; omega, by simp only; omega, aligned⟩
  | transfer p v _ _ entered =>
    obtain ⟨-, -, aligned⟩ := hw p rfl
    obtain ⟨memories, shadow, window⟩ := ht.ofComplete entered
    exact ⟨memories, aligned, rfl, rfl, nofun, shadow, window⟩

theorem toNat_add_aligned {a len : Word} (ha : a.toNat % 4 = 0) (hl : len = 4 ∨ len = 8) :
    (a + len).toNat % 4 = 0 := by
  rw [BitVec.toNat_add]
  obtain rfl | rfl := hl <;> simp <;> omega

theorem State.Inv.begin {s : State} (hs : s.Inv) {len : Word} (hl : len = 4 ∨ len = 8) : (s.begin len).Running :=
  ⟨hs.memories, fun _ => toNat_add_aligned hs.pcAligned hl, nofun, hs.pendingOk, hs.shadowOk, hs.windowOk⟩

theorem State.Inv.running {s : State} (hs : s.Inv) : s.Running :=
  ⟨hs.memories, fun _ => hs.nextAfterPc ▸ toNat_add_aligned hs.pcAligned (.inl rfl),
    fun entered => absurd (hs.settled.symm.trans entered) Bool.false_ne_true, hs.pendingOk, hs.shadowOk, hs.windowOk⟩

theorem State.Inv.ofBundled {s u : State} (hs : s.Inv) (h : Bundled s u) : u.Inv := by
  obtain ⟨len, loaded, multiplied, t, hl, ran, advanced⟩ := h
  have running := (hs.begin hl).ofRan ran
  have window : s.mulShadow ≤ t.cfg.mulDelay := by
    rw [(SameRoms.ofRan ran).cfg]
    exact hs.windowOk
  exact .ofAdvanced (running.endWindows loaded multiplied window) hs.pendingOk advanced

theorem State.Inv.ofEntered {s t : State} {b x : Word} (hs : s.Inv) (h : s.enterBlock b x = .entered t) : t.Inv := by
  have memories := State.memoriesWf_enterBlock hs.memories h
  obtain ⟨-, z, m, rfl, -⟩ := State.enterBlock_entered h
  exact ⟨memories, hs.pcAligned, hs.nextAfterPc, hs.settled, hs.pendingOk, hs.shadowOk, hs.windowOk⟩

theorem State.Inv.ofActed {s u : State} (hs : s.Inv) (h : Acted s u) : u.Inv := by
  cases h with
  | interrupt i t taken =>
    have awake : State.Inv { s with exc := { s.exc with pend := s.exc.pend &&& ~~~(1#32 <<< s.cfg.intrBit i.val) }
                                    sleeping := false } :=
      ⟨hs.memories, hs.pcAligned, hs.nextAfterPc, hs.settled, hs.pendingOk, hs.shadowOk, hs.windowOk⟩
    obtain ⟨running, entered⟩ := awake.running.ofException taken
    exact .ofAdvanced (was := none) running nofun (.handler none entered)
  | sleep => exact hs
  | bundle _ bundled => exact hs.ofBundled bundled
  | first _ _ entered bundled => exact (hs.ofEntered entered).ofBundled bundled

/-- Settles O58: the instructions of a bundle keep what `Running` says, its end makes the invariant hold again, and time
touches nothing of it. -/
theorem invariantKeptByEveryStep : Obligations.InvariantKeptByEveryStep := by
  unfold Obligations.InvariantKeptByEveryStep
  intro s t hs h
  obtain ⟨u, acted, rfl⟩ := step_next h
  obtain ⟨memories, pc, next, settled, pending, shadow, window⟩ := hs.ofActed acted
  refine ⟨?_, ?_, ?_, ?_, ?_, ?_, ?_⟩
  · simpa [State.memoriesWf] using memories
  · simpa using pc
  · simpa using next
  · simpa using settled
  · simpa using pending
  · simpa using shadow
  · simpa using window

/-- Settles O57: every memory is empty at reset, and nothing is pending. -/
theorem invariantHoldsAtReset : Obligations.InvariantHoldsAtReset := by
  unfold Obligations.InvariantHoldsAtReset
  have empty := Memory.wf_nil
  exact ⟨⟨empty, empty, empty, empty, empty, empty, empty, empty, empty, empty⟩, rfl, rfl, rfl, nofun, nofun,
    Nat.zero_le _⟩

/-- Settles O59: each value is the one that `State.resetOf` gives; the sixteen offsets are looked up one by one. -/
theorem resetState : Obligations.ResetState := by
  unfold Obligations.ResetState
  exact ⟨rfl, rfl, rfl, rfl, rfl, rfl, rfl, rfl, rfl, rfl, rfl, rfl, by decide⟩

end Sys2Proof.Machine
end

section
/-! PROOFS. Frames over all instructions: what a disabled instruction leaves, and which instructions change which
part of the state (10_state R21, R24, R26; 20_memory R70; 30_encoding R125; 60_exceptions R403, R430). -/
namespace Sys2Proof.Machine

/-! ### A false guard -/

/-- Settles O7: every meaning stands under its guard. -/
theorem disabledInstructionChangesNothing : Obligations.DisabledInstructionChangesNothing := by
  unfold Obligations.DisabledInstructionChangesNothing
  intro i s off
  cases i <;> exact State.guarded_of_false off _

/-! ### Registers and predicates -/

theorem State.takeException_excEntered {s t : State} {n : Fin 32} {ret : Word} (h : s.takeException n ret = .next t) :
    t.excEntered = true := by
  obtain ⟨-, z, m, rfl, -⟩ := State.takeException_next h
  rfl

theorem State.takeException_regs {s t : State} {n : Fin 32} {ret : Word} (h : s.takeException n ret = .next t) :
    t.regs = s.regs ∧ t.preds = s.preds ∧ t.mem = s.mem ∧ t.sc = s.sc := by
  obtain ⟨-, z, m, rfl, -⟩ := State.takeException_next h
  exact ⟨rfl, rfl, rfl, rfl⟩

theorem Effect.reg {i : Instr} {s t : State} (h : Effect i s t) {q : GReg} (hq : i.destReg ≠ some q) :
    t.reg q = s.reg q := by
  have other {rd : GReg} (dst : i.destReg = some rd) : q ≠ rd := fun e => hq (e ▸ dst)
  cases h with
  | register rd v dst => exact State.reg_setReg_ne s rd q v (other dst)
  | load rd v io p dst =>
    exact State.reg_setReg_ne { s with io := io, exc := { s.exc with pend := p } } rd q v (other dst)
  | predicate | special => exact State.reg_congr (by simp) q
  | disabled | product | stack | transfer | later => rfl
  | store _ _ frame =>
    obtain ⟨sc, mem, marks, exc, mmu, io, sl, rfl⟩ := frame.shape
    rfl
  | fault _ _ raised => exact State.reg_congr (State.takeException_regs (State.raise_next raised).2).1 q
  | trap _ _ _ _ _ _ _ _ _ entered => exact State.reg_congr (State.takeException_regs entered).1 q

theorem Effect.pred {i : Instr} {s t : State} (h : Effect i s t) {p : PReg} (hp : i.destPred ≠ some p)
    (special : i.destSpecial ≠ some 0) : t.pred p = s.pred p := by
  cases h with
  | predicate pd b dst => exact State.pred_setPred_ne s pd p b fun e => hp (e ▸ dst)
  | special n v dst => exact State.pred_congr (s.setSpecial_preds n v fun e => special (e ▸ dst)) p
  | register | load => exact State.pred_congr (by simp) p
  | disabled | product | stack | transfer | later => rfl
  | store _ _ frame =>
    obtain ⟨sc, mem, marks, exc, mmu, io, sl, rfl⟩ := frame.shape
    rfl
  | fault _ _ raised => exact State.pred_congr (State.takeException_regs (State.raise_next raised).2).2.1 p
  | trap _ _ _ _ _ _ _ _ _ entered => exact State.pred_congr (State.takeException_regs entered).2.1 p

theorem joinSecond_reg (on : Bool) {j : Instr} (t u : State) {q : GReg} (hq : j.destReg ≠ some q) :
    (joinSecond on j t u).reg q = t.reg q := by
  unfold joinSecond
  split
  · split
    · rename_i dst
      exact State.reg_setReg_ne t _ q _ fun e => hq (e ▸ dst)
    · exact State.reg_congr (by simp) q
    · rfl
  · rfl

theorem joinSecond_pred (on : Bool) {j : Instr} (t u : State) {p : PReg} (hp : j.destPred ≠ some p) :
    (joinSecond on j t u).pred p = t.pred p := by
  unfold joinSecond
  split
  · split
    · exact State.pred_congr (by simp) p
    · rename_i dst
      exact State.pred_setPred_ne t _ p _ fun e => hp (e ▸ dst)
    · rfl
  · rfl

/-- Settles O8: of what an instruction can do, only a written or loaded register, a written predicate and a write of s0
touch the register files; the second of a bundle adds its one destination. -/
theorem registersAndPredicatesFrame : Obligations.RegistersAndPredicatesFrame := by
  unfold Obligations.RegistersAndPredicatesFrame
  refine ⟨fun i s t h => ⟨fun q hq => (exec_next h).reg hq, fun p hp special => (exec_next h).pred hp special⟩,
    fun i j s t h => ?pair⟩
  obtain ⟨-, ⟨first, -⟩ | ⟨v, u, first, -, -, rfl⟩⟩ := execPair_next h
  · exact ⟨fun q hi _ => (exec_next first).reg hi, fun p hi _ special => (exec_next first).pred hi special⟩
  · exact ⟨fun q hi hj => (joinSecond_reg _ v u hj).trans ((exec_next first).reg hi),
      fun p hi hj special => (joinSecond_pred _ v u hj).trans ((exec_next first).pred hi special)⟩

/-! ### Memory -/

theorem SameBytes.of_eq {s t : State} (mem : t.mem = s.mem) (sc : t.sc = s.sc) : SameBytes s t :=
  ⟨fun _ => mem ▸ rfl, fun _ => mem ▸ rfl, fun _ => mem ▸ rfl, fun _ => mem ▸ rfl, fun _ => mem ▸ rfl,
    fun _ => sc ▸ rfl⟩

/-- Settles O9: of what an instruction can do, only a store and a move of the stack cache touch a memory. -/
theorem memoryFrame : Obligations.MemoryFrame := by
  unfold Obligations.MemoryFrame
  intro i s t h stt stcI stcR
  cases exec_next h with
  | register | predicate | special | load => exact .of_eq (by simp) (by simp)
  | disabled | product | transfer | later => exact .of_eq rfl rfl
  | store _ f => exact absurd f stt
  | stack _ _ _ _ _ f => exact absurd f (not_or.mpr ⟨stcI, stcR⟩)
  | fault _ _ raised =>
    obtain ⟨-, -, mem, sc⟩ := State.takeException_regs (State.raise_next raised).2
    exact .of_eq mem sc
  | trap _ _ _ _ _ _ _ _ _ entered =>
    obtain ⟨-, -, mem, sc⟩ := State.takeException_regs entered
    exact .of_eq mem sc

/-! ### Special registers, the exception unit, the devices and control -/

/-- Exception entry apart: what enters a handler is marked so. -/
theorem not_takeException {s t : State} (unentered : t.excEntered = false) {n : Fin 32} {ret : Word} :
    s.takeException n ret ≠ .next t := fun entered =>
  absurd ((State.takeException_excEntered entered).symm.trans unentered) (by decide)

section unentered
variable {i : Instr} {s t : State} (h : Effect i s t) (unentered : t.excEntered = false)
include h unentered

/-- The special registers as each kind of instruction leaves them. -/
theorem Effect.sp : t.sp = s.sp ∨ (i.format = .aluM ∧ t.sp = { s.sp with sl := t.sp.sl, sh := t.sp.sh }) ∨
    i.format = .spcT ∨
    ((i.format = .stcI ∨ i.format = .stcR) ∧ t.sp = { s.sp with ss := t.sp.ss, st := t.sp.st }) ∨
    (i.isCallnd = true ∧ t.sp = { s.sp with srb := t.sp.srb, sro := t.sp.sro }) := by
  cases h with
  | disabled | later => exact .inl rfl
  | register | predicate | load => exact .inl (by simp)
  | product _ _ f => exact .inr (.inl ⟨f, rfl⟩)
  | special _ _ _ f => exact .inr (.inr (.inl f))
  | stack _ _ _ _ _ f => exact .inr (.inr (.inr (.inl ⟨f, rfl⟩)))
  | store _ _ frame =>
    obtain ⟨sc, mem, marks, exc, mmu, io, sl, rfl⟩ := frame.shape
    exact .inl rfl
  | transfer _ _ _ _ srb sro _ _ _ _ _ _ unlinked =>
    cases callnd : i.isCallnd with
    | true => exact .inr (.inr (.inr (.inr ⟨rfl, rfl⟩)))
    | false =>
      obtain ⟨rfl, rfl⟩ := unlinked callnd
      exact .inl rfl
  | fault _ _ raised => exact absurd (State.raise_next raised).2 (not_takeException unentered)
  | trap _ _ _ _ _ _ _ _ _ entered => exact absurd entered (not_takeException unentered)

theorem Effect.exc (ldt : i.format ≠ .ldt) (stt : i.format ≠ .stt) (xret : i.isXret = false) : t.exc = s.exc := by
  cases h with
  | disabled | product | stack | later => rfl
  | register | predicate | special => simp
  | load _ _ _ _ _ f => exact absurd f ldt
  | store _ f => exact absurd f stt
  | transfer _ _ _ _ _ _ _ _ _ _ _ kept =>
    obtain rfl := kept xret
    rfl
  | fault _ _ raised => exact absurd (State.raise_next raised).2 (not_takeException unentered)
  | trap _ _ _ _ _ _ _ _ _ entered => exact absurd entered (not_takeException unentered)

theorem Effect.io (ldt : i.format ≠ .ldt) (stt : i.format ≠ .stt) :
    t.io = s.io ∧ t.mmu = s.mmu ∧ t.sleeping = s.sleeping := by
  cases h with
  | disabled | product | stack | later | transfer => exact ⟨rfl, rfl, rfl⟩
  | register | predicate | special => simp
  | load _ _ _ _ _ f => exact absurd f ldt
  | store _ f => exact absurd f stt
  | fault _ _ raised => exact absurd (State.raise_next raised).2 (not_takeException unentered)
  | trap _ _ _ _ _ _ _ _ _ entered => exact absurd entered (not_takeException unentered)

theorem Effect.control (straight : ¬ i.transfers) :
    t.base = s.base ∧ t.nextPc = s.nextPc ∧ t.blockSize = s.blockSize ∧ t.pending = s.pending := by
  cases h with
  | disabled | product | stack => exact ⟨rfl, rfl, rfl, rfl⟩
  | register | predicate | special | load => simp
  | store _ _ frame =>
    obtain ⟨sc, mem, marks, exc, mmu, io, sl, rfl⟩ := frame.shape
    exact ⟨rfl, rfl, rfl, rfl⟩
  | transfer _ _ _ _ _ _ _ f => exact absurd f straight
  | later _ f => exact absurd f straight
  | fault _ _ raised => exact absurd (State.raise_next raised).2 (not_takeException unentered)
  | trap _ _ _ _ _ _ _ _ _ entered => exact absurd entered (not_takeException unentered)

theorem Effect.windows : (i.format ≠ .aluM → t.mulShadow = s.mulShadow) ∧
    (i.format ≠ .ldt → t.loadShadow = s.loadShadow) := by
  cases h with
  | disabled | stack | later | transfer => exact ⟨fun _ => rfl, fun _ => rfl⟩
  | register | predicate | special => simp
  | product _ _ f => exact ⟨fun aluM => absurd f aluM, fun _ => rfl⟩
  | load _ _ _ _ _ f => exact ⟨fun _ => by simp, fun ldt => absurd f ldt⟩
  | store _ _ frame =>
    obtain ⟨sc, mem, marks, exc, mmu, io, sl, rfl⟩ := frame.shape
    exact ⟨fun _ => rfl, fun _ => rfl⟩
  | fault _ _ raised => exact absurd (State.raise_next raised).2 (not_takeException unentered)
  | trap _ _ _ _ _ _ _ _ _ entered => exact absurd entered (not_takeException unentered)

theorem Effect.fixed : t.pc = s.pc ∧ t.cfg = s.cfg ∧ t.ticks = s.ticks := by
  cases h with
  | disabled | product | stack | later | transfer => exact ⟨rfl, rfl, rfl⟩
  | register | predicate | special | load => simp
  | store _ _ frame =>
    obtain ⟨sc, mem, marks, exc, mmu, io, sl, rfl⟩ := frame.shape
    exact ⟨rfl, rfl, rfl⟩
  | fault _ _ raised => exact absurd (State.raise_next raised).2 (not_takeException unentered)
  | trap _ _ _ _ _ _ _ _ _ entered => exact absurd entered (not_takeException unentered)

end unentered

theorem Instr.format_of_isCallnd {i : Instr} (h : i.isCallnd = true) : i.format = .cflI ∨ i.format = .cflRs := by
  cases i with
  | callnd => exact .inl rfl
  | callndR => exact .inr rfl
  | _ => cases h

/-- Settles O10: each clause is about one part of the state, and `Effect` says which formats touch it. -/
theorem specialAndControlFrame : Obligations.SpecialAndControlFrame := by
  unfold Obligations.SpecialAndControlFrame
  intro i s t h unentered
  have effect := exec_next h
  have format := @Instr.format_of_isCallnd i
  have windows := effect.windows unentered
  refine ⟨?_, ?_, ?_, ?_, effect.exc unentered, effect.io unentered, effect.control unentered, windows.1, windows.2,
    effect.fixed unentered⟩ <;>
  obtain same | ⟨f, moved⟩ | f | ⟨f, moved⟩ | ⟨f, moved⟩ := effect.sp unentered
  case refine_1.inl => exact fun _ _ _ _ _ => same
  case refine_2.inr.inl => exact fun _ => moved
  case refine_3.inr.inr.inr.inl => exact fun _ => moved
  case refine_4.inr.inr.inr.inr => exact fun _ => moved
  case refine_2.inl | refine_3.inl | refine_4.inl => exact fun _ => by rw [same]
  all_goals grind

/-- Settles O11: in user mode a store leaves the exception unit and the MMU alone, and a load does no more than take
time. -/
theorem userModeCannotConfigure : Obligations.UserModeCannotConfigure := by
  unfold Obligations.UserModeCannotConfigure
  intro i s t user h unentered xret
  cases exec_next h with
  | disabled | product | stack | later => exact ⟨rfl, rfl, rfl, rfl, rfl, rfl, rfl⟩
  | register | predicate | special | load => simp
  | store _ _ frame =>
    obtain ⟨exc, mmu, sleeping⟩ := frame.user user
    exact ⟨exc ▸ rfl, exc ▸ rfl, exc ▸ rfl, exc ▸ rfl, exc ▸ rfl, mmu, sleeping⟩
  | transfer _ _ _ _ _ _ _ _ _ _ _ kept =>
    obtain rfl := kept xret
    exact ⟨rfl, rfl, rfl, rfl, rfl, rfl, rfl⟩
  | fault _ _ raised => exact absurd (State.raise_next raised).2 (not_takeException unentered)
  | trap _ _ _ _ _ _ _ _ _ entered => exact absurd entered (not_takeException unentered)

end Sys2Proof.Machine
end

section
/-! PROOFS. The arithmetic, compare, predicate and bit-copy instructions: what each shared operand form does where it
may run, and the few arithmetic facts by which the model's functions are those of the rules. -/
namespace Sys2Proof.Machine

/-- Settles O6: the laws of register and predicate writes. -/
theorem zeroRegisterAndTruePredicate : Obligations.ZeroRegisterAndTruePredicate := by
  unfold Obligations.ZeroRegisterAndTruePredicate
  intro s r q v p x b
  exact ⟨s.reg_zero, s.setReg_zero v, s.pred_zero, s.setPred_zero b, s.reg_setReg r q v, s.pred_setPred p x b⟩

/-! ### The operand forms, where the guard is true and no register is in its load delay slot -/

theorem aluRegister_of_ready (f : Word → Word → Word) {g : PredOp} {rd rs1 rs2 : GReg} {s : State}
    (h : s.ready g [rs1, rs2, rd]) :
    aluRegister f g rd rs1 rs2 s = .next (s.setReg rd (f (s.reg rs1) (s.reg rs2))) := by
  obtain ⟨on, free⟩ := h
  simp only [List.mem_cons, List.not_mem_nil, or_false, forall_eq_or_imp, forall_eq] at free
  obtain ⟨free1, free2, freed⟩ := free
  rw [aluRegister, State.guarded_of_true on, State.use_of_ready free1, State.use_of_ready free2,
    State.put_of_ready freed]

theorem aluConstant_of_ready (f : Word → Word → Word) (b : Word) {g : PredOp} {rd rs1 : GReg} {s : State}
    (h : s.ready g [rs1, rd]) : aluConstant f g rd rs1 b s = .next (s.setReg rd (f (s.reg rs1) b)) := by
  obtain ⟨on, free⟩ := h
  rw [aluConstant, State.guarded_of_true on, State.use_of_ready (free rs1 (by simp)),
    State.put_of_ready (free rd (by simp))]

theorem multiply_of_ready (f : Word → Word → BitVec 64) {g : PredOp} {rs1 rs2 : GReg} {s : State}
    (h : s.ready g [rs1, rs2]) : multiply f g rs1 rs2 s = .next (s.putProduct (f (s.reg rs1) (s.reg rs2))) := by
  obtain ⟨on, free⟩ := h
  rw [multiply, State.guarded_of_true on, State.use_of_ready (free rs1 (by simp)),
    State.use_of_ready (free rs2 (by simp))]

theorem compareRegister_of_ready (f : Word → Word → Bool) {g : PredOp} {pd : PReg} {rs1 rs2 : GReg} {s : State}
    (h : s.ready g [rs1, rs2]) :
    compareRegister f g pd rs1 rs2 s = .next (s.setPred pd (f (s.reg rs1) (s.reg rs2))) := by
  obtain ⟨on, free⟩ := h
  rw [compareRegister, State.guarded_of_true on, State.use_of_ready (free rs1 (by simp)),
    State.use_of_ready (free rs2 (by simp))]

theorem compareConstant_of_ready (f : Word → Word → Bool) (imm : BitVec 5) {g : PredOp} {pd : PReg} {rs1 : GReg}
    {s : State} (h : s.ready g [rs1]) :
    compareConstant f g pd rs1 imm s = .next (s.setPred pd (f (s.reg rs1) (op5 imm))) := by
  obtain ⟨on, free⟩ := h
  rw [compareConstant, State.guarded_of_true on, State.use_of_ready (free rs1 (by simp))]

theorem combine_of_enabled (f : Bool → Bool → Bool) {g : PredOp} (pd : PReg) (x y : PredOp) {s : State}
    (h : s.ps g = true) : combine f g pd x y s = .next (s.setPred pd (f (s.ps x) (s.ps y))) :=
  State.guarded_of_true h _

theorem execBtest_of_ready {g : PredOp} (pd : PReg) {rs1 rs2 : GReg} {s : State} (h : s.ready g [rs1, rs2]) :
    execBtest g pd rs1 rs2 s = need (decide ((s.reg rs2).toNat < 32)) .bitIndex
      (.next (s.setPred pd (bitOf (s.reg rs1) (s.reg rs2)))) := by
  obtain ⟨on, free⟩ := h
  rw [execBtest, State.guarded_of_true on, State.use_of_ready (free rs1 (by simp)),
    State.use_of_ready (free rs2 (by simp))]

/-! ### The functions, as the rules write them -/

theorem shiftRightArith_eq (a b : Word) :
    shiftRightArith a b = BitVec.ofInt 32 (a.toInt / 2 ^ (b.toNat % 32)) := by
  rw [shiftRightArith, shiftAmount, ← BitVec.ofInt_toInt (x := a.sshiftRight _), BitVec.toInt_sshiftRight,
    Int.shiftRight_eq_div_pow]
  norm_cast

theorem shiftAdd_eq (a b : Word) : shiftAdd a b = a * 2 + b := by
  rw [shiftAdd, BitVec.shiftLeft_eq_mul_twoPow]
  rfl

theorem shiftAddTwo_eq (a b : Word) : shiftAddTwo a b = a * 4 + b := by
  rw [shiftAddTwo, BitVec.shiftLeft_eq_mul_twoPow]
  rfl

theorem op12_eq (imm : BitVec 12) : op12 imm = BitVec.ofNat 32 imm.toNat := by
  rw [op12, BitVec.ofNat_toNat]

@[simp] theorem toNat_op12 (imm : BitVec 12) : (op12 imm).toNat = imm.toNat := by
  have := imm.isLt
  simp only [op12, BitVec.toNat_setWidth]
  omega

@[simp] theorem toNat_op5 (imm : BitVec 5) : (op5 imm).toNat = imm.toNat := by
  have := imm.isLt
  simp only [op5, BitVec.toNat_setWidth]
  omega

@[simp] theorem toInt_op5 (imm : BitVec 5) : (op5 imm).toInt = imm.toNat := by
  have := imm.isLt
  rw [BitVec.toInt_eq_toNat_of_lt (by rw [toNat_op5]; omega), toNat_op5]

theorem isEq_eq (a b : Word) : isEq a b = decide (a = b) :=
  Bool.eq_iff_iff.mpr (by simp [isEq])

theorem isNe_eq (a b : Word) : isNe a b = decide (a ≠ b) :=
  Bool.eq_iff_iff.mpr (by simp [isNe])

theorem bitOf_eq (a b : Word) : bitOf a b = decide (a.toNat / 2 ^ b.toNat % 2 = 1) := by
  rw [bitOf, BitVec.getLsbD, Nat.testBit_eq_decide_div_mod_eq]

theorem eq_op5_iff (a : Word) (imm : BitVec 5) : a = op5 imm ↔ a.toNat = imm.toNat := by
  rw [← BitVec.toNat_inj, toNat_op5]

theorem toNat_append_eq {m n : Nat} (x : BitVec m) (y : BitVec n) : (x ++ y).toNat = x.toNat * 2 ^ n + y.toNat := by
  rw [BitVec.toNat_append, ← Nat.shiftLeft_add_eq_or_of_lt y.isLt, Nat.shiftLeft_eq]

/-- The halves of a product, joined again. -/
theorem putProduct_halves (p : BitVec 64) : ((p >>> 32).setWidth 32 ++ p.setWidth 32 : BitVec 64) = p := by
  have := p.isLt
  apply BitVec.eq_of_toNat_eq
  rw [toNat_append_eq, BitVec.toNat_setWidth, BitVec.toNat_setWidth, BitVec.toNat_ushiftRight,
    Nat.shiftRight_eq_div_pow]
  omega

theorem toInt_signedProduct (a b : Word) : (signedProduct a b).toInt = a.toInt * b.toInt := by
  have bound (x : Word) : x.toInt.natAbs ≤ 2 ^ 31 := by
    have low := x.le_toInt
    have high := x.toInt_lt
    omega
  have product : (a.toInt * b.toInt).natAbs ≤ 2 ^ 31 * 2 ^ 31 :=
    Int.natAbs_mul a.toInt b.toInt ▸ Nat.mul_le_mul (bound a) (bound b)
  rw [signedProduct, BitVec.toInt_ofInt, Int.bmod_eq_of_le (by omega) (by omega)]

theorem toNat_unsignedProduct (a b : Word) : (unsignedProduct a b).toNat = a.toNat * b.toNat := by
  have product : a.toNat * b.toNat < 2 ^ 64 := Nat.mul_lt_mul'' (c := 2 ^ 32) (d := 2 ^ 32) a.isLt b.isLt
  rw [unsignedProduct, BitVec.toNat_ofNat, Nat.mod_eq_of_lt product]

theorem getLsbD_replaceBit (a : Word) (b : Bool) {n k : Nat} (hk : k < 32) :
    (replaceBit a n b).getLsbD k = if k = n then b else a.getLsbD k := by
  simp only [replaceBit, BitVec.getLsbD_or, BitVec.getLsbD_and, BitVec.getLsbD_not, BitVec.getLsbD_shiftLeft,
    BitVec.getLsbD_setWidth, BitVec.getLsbD_one, BitVec.getLsbD_ofBool]
  rcases Nat.lt_trichotomy k n with below | rfl | above
  · simp [hk, below, Nat.ne_of_lt below]
  · simp [hk]
  · simp [hk, Nat.ne_of_gt above, Nat.lt_asymm above, Nat.sub_ne_zero_of_lt above]

/-! ### The statements -/

/-- Settles O13: each form is `aluRegister` of its function. -/
theorem aluRegisterResults : Obligations.AluRegisterResults := by
  unfold Obligations.AluRegisterResults
  intro g rd rs1 rs2 s h
  have run := fun f => aluRegister_of_ready f h
  refine ⟨run addWord, run subWord, run xorWord, run shiftLeft, run shiftRight, ?sra, run orWord, run andWord,
    run norWord, ?shadd, ?shadd2⟩
  case sra => exact (run shiftRightArith).trans (by rw [shiftRightArith_eq])
  case shadd => exact (run shiftAdd).trans (by rw [shiftAdd_eq])
  case shadd2 => exact (run shiftAddTwo).trans (by rw [shiftAddTwo_eq])

/-- Settles O14: each form is `aluConstant` of its function and the extended immediate. -/
theorem aluImmediateResults : Obligations.AluImmediateResults := by
  unfold Obligations.AluImmediateResults
  intro g rd rs1 imm s h
  rw [← op12_eq, ← toNat_op12 imm]
  have run := fun f => aluConstant_of_ready f (op12 imm) h
  exact ⟨run addWord, run subWord, run xorWord, run shiftLeft, run shiftRight,
    (run shiftRightArith).trans (by rw [shiftRightArith_eq]), run orWord, run andWord⟩

/-- Settles O15: each form is `aluConstant` of its function. -/
theorem aluLongResults : Obligations.AluLongResults := by
  unfold Obligations.AluLongResults
  intro g rd rs1 imm s h
  have run := fun f => aluConstant_of_ready f imm h
  refine ⟨run addWord, run subWord, run xorWord, run shiftLeft, run shiftRight, ?sra, run orWord, run andWord,
    run norWord, ?shadd, ?shadd2⟩
  case sra => exact (run shiftRightArith).trans (by rw [shiftRightArith_eq])
  case shadd => exact (run shiftAdd).trans (by rw [shiftAdd_eq])
  case shadd2 => exact (run shiftAddTwo).trans (by rw [shiftAddTwo_eq])

/-- Settles O16: the product fits in 64 bits, and its halves joined are the product. -/
theorem multiplyResults : Obligations.MultiplyResults := by
  unfold Obligations.MultiplyResults
  intro g rs1 rs2 s h
  have run := fun f => multiply_of_ready f h
  refine ⟨⟨_, _, ?_, run signedProduct⟩, ⟨_, _, ?_, run unsignedProduct⟩⟩
  · rw [putProduct_halves, toInt_signedProduct]
  · rw [putProduct_halves, toNat_unsignedProduct]

/-- Settles O17: each compare is `compareRegister` of its relation; `btest` is guarded by its index. -/
theorem compareRegisterResults : Obligations.CompareRegisterResults := by
  unfold Obligations.CompareRegisterResults
  intro g pd rs1 rs2 s h
  have run := fun f => compareRegister_of_ready (pd := pd) f h
  refine ⟨(run isEq).trans (by rw [isEq_eq]), (run isNe).trans (by rw [isNe_eq]), run isLt, run isLe, run isUlt,
    run isUle, fun below => ?_, fun above => ?_⟩
  · exact (execBtest_of_ready pd h).trans (by rw [need_of_true (by simpa using below), bitOf_eq])
  · exact (execBtest_of_ready pd h).trans (need_of_false (by simpa using above) _ _)

/-- Settles O18: each compare is `compareConstant` of its relation. -/
theorem compareImmediateResults : Obligations.CompareImmediateResults := by
  unfold Obligations.CompareImmediateResults
  intro g pd rs1 imm s h
  have run := fun f => compareConstant_of_ready (pd := pd) f imm h
  refine ⟨(run isEq).trans ?_, (run isNe).trans ?_, (run isLt).trans ?_, (run isLe).trans ?_, (run isUlt).trans ?_,
    (run isUle).trans ?_, (run bitOf).trans ?_⟩
  · simp only [isEq_eq, eq_op5_iff]
  · simp only [isNe_eq, ne_eq, eq_op5_iff]
  · rw [isLt, toInt_op5]
  · rw [isLe, toInt_op5]
  · rw [isUlt, toNat_op5]
  · rw [isUle, toNat_op5]
  · rw [bitOf_eq, toNat_op5]

/-- Settles O19: the combines are `combine` of their function; the bit copy is read bit by bit. -/
theorem predicateCombineAndBitcopyResults : Obligations.PredicateCombineAndBitcopyResults := by
  unfold Obligations.PredicateCombineAndBitcopyResults
  refine ⟨fun g pd ps1 ps2 s on => ?_, fun g rd rs1 imm ps s h => ?_⟩
  · exact ⟨combine_of_enabled Bool.or pd ps1 ps2 on, combine_of_enabled Bool.and pd ps1 ps2 on,
      combine_of_enabled Bool.xor pd ps1 ps2 on⟩
  · obtain ⟨on, free⟩ := h
    refine ⟨replaceBit (s.reg rs1) imm.toNat (s.ps ps), ?_, fun k hk => getLsbD_replaceBit _ _ hk⟩
    show execBcopy g rd rs1 imm ps s = _
    rw [execBcopy, State.guarded_of_true on, State.use_of_ready (free rs1 (by simp)),
      State.put_of_ready (free rd (by simp))]

end Sys2Proof.Machine
end

section
/-! PROOFS. The special moves: when a special register may be read or written, and what a write leaves (45_special_moves
R266 to R273). -/
namespace Sys2Proof.Machine

/-! ### The transfer that is pending -/

theorem State.pendingKind_eq_false {s : State} {k : TransferKind} (h : ∀ p, s.pending = some p → p.kind ≠ k) :
    s.pendingKind k = false := by
  rw [State.pendingKind]
  split
  next p pending => exact beq_eq_false_iff_ne.mpr (h p pending)
  next => rfl

theorem State.pendingKind_eq_true {s : State} {k : TransferKind} (h : ∃ p, s.pending = some p ∧ p.kind = k) :
    s.pendingKind k = true := by
  obtain ⟨p, pending, rfl⟩ := h
  simp [State.pendingKind, pending]

/-! ### Where a move is free, and where it is refused

The special registers fall into five classes, by what may keep them from being moved. -/

theorem SReg.class (n : SReg) : (n = 0 ∨ n = 5 ∨ n = 6) ∨ (n = 2 ∨ n = 3) ∨ (n = 7 ∨ n = 8) ∨ (n = 9 ∨ n = 10) ∨
    (n = 1 ∨ n = 4 ∨ 11 ≤ n.val) := by
  revert n
  decide

section
variable {s : State} {n : SReg}

theorem State.special_of_product (h : n = 2 ∨ n = 3) :
    s.specialUnreadable n = (if s.mulShadow = 0 then none else some .multiplyInFlight) ∧
      s.specialUnwritable n = s.specialUnreadable n := by
  rcases h with rfl | rfl <;> exact ⟨rfl, rfl⟩

theorem State.special_of_return (h : n = 7 ∨ n = 8) :
    s.specialUnreadable n = (if s.pendingKind .call then some .returnRegisterInDelaySlot else none) ∧
      s.specialUnwritable n =
        if s.pendingKind .call || s.pendingKind .ret then some .returnRegisterInDelaySlot else none := by
  rcases h with rfl | rfl <;> exact ⟨rfl, rfl⟩

theorem State.special_of_xret (h : n = 9 ∨ n = 10) : s.specialUnreadable n = none ∧
    s.specialUnwritable n = if s.pendingKind .xret then some .returnRegisterInDelaySlot else none := by
  rcases h with rfl | rfl <;> exact ⟨rfl, rfl⟩

theorem State.special_of_unnamed (h : n = 1 ∨ n = 4 ∨ 11 ≤ n.val) :
    s.specialUnreadable n = (if s.cfg.plainSpecials then none else some .unnamedSpecial) ∧
      s.specialUnwritable n = s.specialUnreadable n := by
  have named : ∀ n : SReg, n = 1 ∨ n = 4 ∨ 11 ≤ n.val →
    n = 1 ∨ n = 4 ∨ n = 11 ∨ n = 12 ∨ n = 13 ∨ n = 14 ∨ n = 15 := by decide
  rcases named n h with rfl | rfl | rfl | rfl | rfl | rfl | rfl <;> exact ⟨rfl, rfl⟩

theorem State.special_of_free (product : n = 2 ∨ n = 3 → s.mulShadow = 0)
    (plain : n = 1 ∨ n = 4 ∨ 11 ≤ n.val → s.cfg.plainSpecials = true)
    (call : n = 7 ∨ n = 8 → s.pendingKind .call = false) : s.specialUnreadable n = none ∧
    ((n = 7 ∨ n = 8 → s.pendingKind .ret = false) → (n = 9 ∨ n = 10 → s.pendingKind .xret = false) →
      s.specialUnwritable n = none) := by
  obtain h | h | h | h | h := SReg.class n
  · rcases h with rfl | rfl | rfl <;> exact ⟨rfl, fun _ _ => rfl⟩
  · rw [(State.special_of_product h).2, (State.special_of_product h).1, if_pos (product h)]
    exact ⟨rfl, fun _ _ => rfl⟩
  · rw [(State.special_of_return h).2, (State.special_of_return h).1, call h]
    exact ⟨rfl, fun ret _ => by rw [ret h]; rfl⟩
  · rw [(State.special_of_xret h).2, (State.special_of_xret h).1]
    exact ⟨rfl, fun _ xret => by rw [xret h]; rfl⟩
  · rw [(State.special_of_unnamed h).2, (State.special_of_unnamed h).1, plain h]
    exact ⟨rfl, fun _ _ => rfl⟩

theorem exec_mts_of_unwritable {g : PredOp} {r : GReg} {why : Refusal} (h : s.ready g [r])
    (kept : s.specialUnwritable n = some why) : exec (.mts g n r) s = .refused why := by
  obtain ⟨on, unshadowed⟩ := h
  show execMts g n r s = _
  rw [execMts, State.guarded_of_true on, State.use_of_ready (unshadowed r (by simp)), kept]

theorem exec_mfs_of_unreadable {g : PredOp} {r : GReg} {why : Refusal} (on : s.ps g = true)
    (kept : s.specialUnreadable n = some why) : exec (.mfs g r n) s = .refused why := by
  show execMfs g r n s = _
  rw [execMfs, State.guarded_of_true on, kept]

end

/-! ### What a write leaves -/

theorem State.setSpecial_sp (s : State) {n : SReg} (v : Word) (storage : n ≠ 0) :
    s.setSpecial n v = { s with sp := (s.setSpecial n v).sp } := by
  unfold State.setSpecial
  split
  next zero => exact absurd (Fin.ext zero) storage
  all_goals rfl

/-- The special registers with storage, by number; s0 has none. -/
def Specials.values (p : Specials) : Vector Word 16 :=
  #v[0, p.s1, p.sl, p.sh, p.s4, p.ss, p.st, p.srb, p.sro, p.sxb, p.sxo, p.s11, p.s12, p.s13, p.s14, p.s15]

theorem State.special_eq_value (s : State) (n : SReg) : n ≠ 0 → s.special n = s.sp.values[n] := by
  intro storage
  match n with
  | 0 => exact absurd rfl storage
  | 1 | 2 | 3 | 4 | 5 | 6 | 7 | 8 | 9 | 10 | 11 | 12 | 13 | 14 | 15 => rfl
  | ⟨_ + 16, beyond⟩ => omega

theorem State.values_setSpecial (s : State) (n : SReg) (v : Word) :
    n ≠ 0 → (s.setSpecial n v).sp.values = s.sp.values.set n.val v n.isLt := by
  intro storage
  match n with
  | 0 => exact absurd rfl storage
  | 1 | 2 | 3 | 4 | 5 | 6 | 7 | 8 | 9 | 10 | 11 | 12 | 13 | 14 | 15 => rfl
  | ⟨_ + 16, beyond⟩ => omega

theorem State.special_setSpecial_ne (s : State) {n k : SReg} (v : Word) (storage : n ≠ 0) (other : k ≠ n) :
    (s.setSpecial n v).special k = s.special k := by
  by_cases view : k = 0
  · rw [view, s.setSpecial_sp v storage]
    rfl
  · have other : n.val ≠ k.val := fun same => other (Fin.ext same.symm)
    rw [State.special_eq_value _ k view, State.special_eq_value _ k view, s.values_setSpecial n v storage]
    exact Vector.getElem_set_ne n.isLt k.isLt other

/-- Settles O21: the four things that keep a special register from being moved, and the move itself where none does. -/
theorem specialMoves : Obligations.SpecialMoves := by
  unfold Obligations.SpecialMoves
  intro g r n s h
  refine ⟨fun product plain call => ?free, fun product window => ?inFlight, fun plain absent => ?unnamed,
    fun returns call => ?pendingCall, fun returning => ?pendingReturn⟩
  case free =>
    obtain ⟨readable, writable⟩ := State.special_of_free product plain
      fun returns => State.pendingKind_eq_false (call returns)
    refine ⟨exec_mfs_of_readable h readable, fun storage ret xret => ?_⟩
    have free := writable (fun returns => State.pendingKind_eq_false (ret returns))
      (fun returns => State.pendingKind_eq_false (xret returns))
    exact ⟨s.setSpecial n (s.reg r), exec_mts_of_writable h free, s.special_setSpecial_same n _ storage,
      fun k other => s.special_setSpecial_ne _ storage other, s.setSpecial_sp _ storage⟩
  case inFlight =>
    obtain ⟨unreadable, same⟩ := State.special_of_product (s := s) product
    rw [if_neg window] at unreadable
    exact ⟨exec_mts_of_unwritable h (same.trans unreadable), exec_mfs_of_unreadable h.1 unreadable⟩
  case unnamed =>
    obtain ⟨unreadable, same⟩ := State.special_of_unnamed (s := s) plain
    rw [absent] at unreadable
    exact ⟨exec_mts_of_unwritable h (same.trans unreadable), exec_mfs_of_unreadable h.1 unreadable⟩
  case pendingCall =>
    obtain ⟨unreadable, unwritable⟩ := State.special_of_return (s := s) returns
    rw [State.pendingKind_eq_true call] at unreadable unwritable
    exact ⟨exec_mts_of_unwritable h unwritable, exec_mfs_of_unreadable h.1 unreadable⟩
  case pendingReturn =>
    refine exec_mts_of_unwritable h ?_
    obtain ⟨returns, pending⟩ | ⟨returns, pending⟩ := returning
    · rw [(State.special_of_return returns).2, State.pendingKind_eq_true pending, Bool.or_true]
      rfl
    · rw [(State.special_of_xret returns).2, State.pendingKind_eq_true pending]
      rfl

end Sys2Proof.Machine
end

section
/-! PROOFS. The typed loads and stores: what each access gives in each space, and from that what the instruction does
(20_memory R61 to R82, 46_load, 47_store). -/
namespace Sys2Proof.Machine

/-- Settles O22: the shift of the displacement is a product. -/
theorem effectiveAddress : Obligations.EffectiveAddress := by
  unfold Obligations.EffectiveAddress
  intro b imm
  have bound := imm.isLt
  refine ⟨congrArg (b + ·) ?_, congrArg (b + ·) ?_, congrArg (b + ·) ?_⟩ <;>
    · apply BitVec.eq_of_toNat_eq
      simp only [Size.scale, BitVec.toNat_shiftLeft, BitVec.toNat_setWidth, BitVec.toNat_ofNat, Nat.shiftLeft_eq]
      omega

/-! ### The access that an instruction makes -/

section
variable {s : State} {ea : Word} {size : Size}

theorem aligned_iff : aligned size ea = true ↔ ea.toNat % size.bytes = 0 := beq_iff_eq

theorem State.loadFrom_of_misaligned (space : Space) (h : ea.toNat % size.bytes ≠ 0) :
    s.loadFrom space ea size = .refuse .misaligned := by
  simp [State.loadFrom, mt aligned_iff.mp h]

theorem State.storeTo_of_misaligned (space : Space) (v : Word) (h : ea.toNat % size.bytes ≠ 0) :
    s.storeTo space ea size v = .refuse .misaligned := by
  simp [State.storeTo, mt aligned_iff.mp h]

theorem State.loadFrom_sc (h : ea.toNat % size.bytes = 0) : s.loadFrom .sc ea size = s.loadSc ea size.bytes := by
  simp [State.loadFrom, aligned_iff.mpr h]

theorem State.storeTo_sc (h : ea.toNat % size.bytes = 0) (v : Word) :
    s.storeTo .sc ea size v = s.storeSc ea size.bytes v := by
  simp [State.storeTo, aligned_iff.mpr h]

theorem State.loadFrom_lm (h : ea.toNat % size.bytes = 0) : s.loadFrom .lm ea size = s.loadLocal ea size := by
  simp [State.loadFrom, aligned_iff.mpr h]

theorem State.storeTo_lm (h : ea.toNat % size.bytes = 0) (v : Word) :
    s.storeTo .lm ea size v = s.storeLocal ea size v := by
  simp [State.storeTo, aligned_iff.mpr h]

theorem State.loadFrom_gm (h : ea.toNat % size.bytes = 0) : s.loadFrom .gm ea size = s.loadGlobal false ea size := by
  simp [State.loadFrom, aligned_iff.mpr h]

theorem State.storeTo_gm (h : ea.toNat % size.bytes = 0) (v : Word) :
    s.storeTo .gm ea size v = s.storeGlobal false ea size v := by
  simp [State.storeTo, aligned_iff.mpr h]

theorem State.loadFrom_dc (h : ea.toNat % size.bytes = 0) (global : s.exc.localMode = false) :
    s.loadFrom .dc ea size = s.loadGlobal true ea size := by
  simp [State.loadFrom, aligned_iff.mpr h, global]

theorem State.storeTo_dc (h : ea.toNat % size.bytes = 0) (global : s.exc.localMode = false) (v : Word) :
    s.storeTo .dc ea size v = s.storeGlobal true ea size v := by
  simp [State.storeTo, aligned_iff.mpr h, global]

theorem State.loadFrom_dc_of_local (redirected : s.exc.localMode = true) :
    s.loadFrom .dc ea size = s.loadFrom .lm ea size := by
  simp [State.loadFrom, redirected]

theorem State.storeTo_dc_of_local (redirected : s.exc.localMode = true) (v : Word) :
    s.storeTo .dc ea size v = s.storeTo .lm ea size v := by
  simp [State.storeTo, redirected]

end

section
variable {g : PredOp} {rd ra rs : GReg} {s : State}

theorem loadTyped_of_refuse (on : s.ready g [ra, rd]) (space : Space) (size : Size) (signed : Bool) (imm : BitVec 7)
    {why : Refusal} (access : s.loadFrom space (effective (s.reg ra) size imm) size = .refuse why) :
    loadTyped space size signed g rd ra imm s = .refused why := by
  obtain ⟨enabled, free⟩ := on
  rw [loadTyped, State.guarded_of_true enabled, State.use_of_ready (free ra (by simp)),
    need_of_true (by rw [free rd (by simp)]; rfl), access]

theorem loadTyped_of_fault (on : s.ready g [ra, rd]) (space : Space) (size : Size) (signed : Bool) (imm : BitVec 7)
    (access : s.loadFrom space (effective (s.reg ra) size imm) size = .fault) :
    loadTyped space size signed g rd ra imm s = s.illegalAccess := by
  obtain ⟨enabled, free⟩ := on
  rw [loadTyped, State.guarded_of_true enabled, State.use_of_ready (free ra (by simp)),
    need_of_true (by rw [free rd (by simp)]; rfl), access]

theorem storeTyped_of_refuse (on : s.ready g [ra, rs]) (space : Space) (size : Size) (imm : BitVec 7)
    {why : Refusal} (access : s.storeTo space (effective (s.reg ra) size imm) size (s.reg rs) = .refuse why) :
    storeTyped space size g ra rs imm s = .refused why := by
  obtain ⟨enabled, free⟩ := on
  rw [storeTyped, State.guarded_of_true enabled, State.use_of_ready (free ra (by simp)),
    State.use_of_ready (free rs (by simp)), access]

theorem storeTyped_of_fault (on : s.ready g [ra, rs]) (space : Space) (size : Size) (imm : BitVec 7)
    (access : s.storeTo space (effective (s.reg ra) size imm) size (s.reg rs) = .fault) :
    storeTyped space size g ra rs imm s = s.illegalAccess := by
  obtain ⟨enabled, free⟩ := on
  rw [storeTyped, State.guarded_of_true enabled, State.use_of_ready (free ra (by simp)),
    State.use_of_ready (free rs (by simp)), access]

end

/-- Settles O30: in local mode the space `c` is the space `l`, and nothing else of a typed access asks for its space. -/
theorem localModeRedirects : Obligations.LocalModeRedirects := by
  unfold Obligations.LocalModeRedirects
  intro g r q imm s redirected
  have loads (size : Size) (signed : Bool) :
      loadTyped .dc size signed g r q imm s = loadTyped .lm size signed g r q imm s := by
    simp only [loadTyped, State.loadFrom_dc_of_local redirected]
  have stores (size : Size) : storeTyped .dc size g r q imm s = storeTyped .lm size g r q imm s := by
    simp only [storeTyped, State.storeTo_dc_of_local redirected]
  exact ⟨loads .word _, loads .half _, loads .half _, loads .byte _, loads .byte _, stores .word, stores .half,
    stores .byte⟩

/-! ### The value of a load -/

/-- The value that a load of one size makes of the bytes `at_ 0`, `at_ 1`, … (46_load R283, 20_memory R66). -/
def loadedValue (signed : Bool) (size : Size) (at_ : Nat → Byte) : Word :=
  match size with
  | .word => bigWord at_
  | .half => if signed then (bigHalf at_).signExtend 32 else (bigHalf at_).setWidth 32
  | .byte => if signed then (at_ 0).signExtend 32 else (at_ 0).setWidth 32

theorem extend_readWord {m : Memory} {as : List Nat} {size : Size} {at_ : Nat → Byte} (signed : Bool)
    (h : as.map m.read = (List.range size.bytes).map at_) :
    extend signed size (m.readWord as) = loadedValue signed size at_ := by
  rw [Memory.readWord, h]
  cases size with
  | word => exact wordOf_four _ _ _ _
  | half =>
    have pair : (List.range 2).map at_ = [at_ 0, at_ 1] := rfl
    simp only [extend, loadedValue, Size.bytes, pair, wordOf_two]
  | byte =>
    have single : (List.range 1).map at_ = [at_ 0] := rfl
    simp only [extend, loadedValue, Size.bytes, single, wordOf_one]

theorem map_read_span {m : Memory} {a n : Nat} {at_ : Nat → Byte} (h : ∀ k, at_ k = m.read (a + k)) :
    (span a n).map m.read = (List.range n).map at_ := by
  rw [span, List.map_map]
  exact List.map_congr_left fun k _ => (h k).symm

/-! ### The stack cache -/

section
variable {s : State} {ea : Word} {n : Nat}

theorem State.loadSc_of_window (ready : s.stackReady = true) (inside : ea.toNat + n ≤ s.occupancy) :
    s.loadSc ea n = .value (s.sc.readWord (s.scSpan (s.sp.st + ea) n)) s := by
  simp [State.loadSc, ready, State.inWindow, inside]

theorem State.storeSc_of_window (ready : s.stackReady = true) (inside : ea.toNat + n ≤ s.occupancy) (v : Word) :
    s.storeSc ea n v = .done { s with sc := s.sc.writeWord (s.scSpan (s.sp.st + ea) n) v } := by
  simp [State.storeSc, ready, State.inWindow, inside]

/-- What stack pointers that are ready say of the addresses. -/
theorem State.stackReady_iff : s.stackReady = true ↔
    s.sp.ss.toNat % 4 = 0 ∧ s.sp.st.toNat % 4 = 0 ∧ s.occupancy ≤ s.cfg.scSize := by
  simp [State.stackReady, and_assoc]

end

theorem loadTyped_sc {g : PredOp} {rd ra : GReg} {imm : BitVec 7} {s : State} {at_ : Nat → Byte} {ea : Word}
    (on : s.ready g [ra, rd]) (ready : s.stackReady = true)
    (bytes : ∀ k, at_ k = s.sc.read ((s.sp.st + ea + BitVec.ofNat 32 k).toNat % s.cfg.scSize)) {size : Size}
    (signed : Bool) (address : ea = effective (s.reg ra) size imm) (whole : ea.toNat % size.bytes = 0)
    (inside : ea.toNat + size.bytes ≤ s.occupancy) :
    loadTyped .sc size signed g rd ra imm s = .next (s.loaded rd (loadedValue signed size at_)) := by
  subst address
  have access := (State.loadFrom_sc whole).trans (State.loadSc_of_window ready inside)
  rw [loadTyped_of_value on .sc size signed imm access, extend_readWord signed]
  rw [State.scSpan, List.map_map]
  exact List.map_congr_left fun k _ => (bytes k).symm

/-- Settles O23: `loadTyped_sc`, at each size. -/
theorem loadStackCache : Obligations.LoadStackCache := by
  unfold Obligations.LoadStackCache
  intro g rd ra imm s ea at_ on ready bytes
  have run := fun (size : Size) (signed : Bool) => loadTyped_sc (imm := imm) (size := size) on ready bytes signed
  refine ⟨run .word false, fun address whole inside => ⟨?_, ?_⟩, fun address inside => ⟨?_, ?_⟩⟩
  · exact run .half true address whole inside
  · exact run .half false address whole inside
  · exact run .byte true address (Nat.mod_one _) inside
  · exact run .byte false address (Nat.mod_one _) inside

theorem le_of_add_mod_eq {a i j m : Nat} (same : (a + i) % m = (a + j) % m) (hj : j < m) : j ≤ i := by
  have apart : (j - i) % m = 0 := by
    rw [← Nat.add_sub_add_left a j i]
    exact Nat.sub_mod_eq_zero_of_mod_eq same.symm
  rw [Nat.mod_eq_of_lt (by omega)] at apart
  omega

theorem eq_of_add_mod_eq {a i j m : Nat} (same : (a + i) % m = (a + j) % m) (hi : i < m) (hj : j < m) : i = j :=
  Nat.le_antisymm (le_of_add_mod_eq same.symm hi) (le_of_add_mod_eq same hj)

/-- Bytes of one access are at different places of the stack cache: the access does not wrap around the address space,
and is no longer than the cache. -/
theorem State.scIndex_injective {s : State} {ea : Word} {size : Size} (ready : s.stackReady = true)
    (whole : ea.toNat % size.bytes = 0) (inside : ea.toNat + size.bytes ≤ s.occupancy) {i j : Nat}
    (hi : i < size.bytes) (hj : j < size.bytes)
    (same : s.scIndex (s.sp.st + ea + BitVec.ofNat 32 i) = s.scIndex (s.sp.st + ea + BitVec.ofNat 32 j)) :
    i = j := by
  obtain ⟨-, multiple, resident⟩ := State.stackReady_iff.mp ready
  have four : size.bytes = 4 ∨ size.bytes = 2 ∨ size.bytes = 1 := by cases size <;> simp [Size.bytes]
  have start : (s.sp.st + ea).toNat % size.bytes = 0 := by
    rw [BitVec.toNat_add]
    rcases four with e | e | e <;> rw [e] at whole ⊢ <;> omega
  have room := (s.sp.st + ea).isLt
  have plain (k : Nat) (hk : k < size.bytes) :
      (s.sp.st + ea + BitVec.ofNat 32 k).toNat = (s.sp.st + ea).toNat + k := by
    rw [BitVec.toNat_add, BitVec.toNat_ofNat]
    rcases four with e | e | e <;> rw [e] at start hk <;> omega
  rw [State.scIndex, State.scIndex, plain i hi, plain j hj] at same
  exact eq_of_add_mod_eq same (by omega) (by omega)

theorem storeTyped_sc {g : PredOp} {ra rs : GReg} {imm : BitVec 7} {s : State} {addr : Nat → Nat} {ea : Word}
    (on : s.ready g [ra, rs]) (ready : s.stackReady = true)
    (places : ∀ k, addr k = (s.sp.st + ea + BitVec.ofNat 32 k).toNat % s.cfg.scSize) {size : Size}
    (address : ea = effective (s.reg ra) size imm) (whole : ea.toNat % size.bytes = 0)
    (inside : ea.toNat + size.bytes ≤ s.occupancy) :
    ∃ c, storeTyped .sc size g ra rs imm s = .next { s with sc := c } ∧
      Stored s.sc c addr size.bytes (s.reg rs) := by
  obtain rfl : addr = fun k => s.scIndex (s.sp.st + ea + BitVec.ofNat 32 k) := funext places
  refine ⟨_, storeTyped_of_done on .sc size imm (address ▸ (State.storeTo_sc whole _).trans
    (State.storeSc_of_window ready inside _)), Memory.stored_writeWord rfl fun i j hi hj => ?_⟩
  exact State.scIndex_injective ready whole inside hi hj

/-- Settles O26: `storeTyped_sc`, at each size. -/
theorem storeStackCache : Obligations.StoreStackCache := by
  unfold Obligations.StoreStackCache
  intro g ra rs imm s ea addr on ready places
  have run := fun (size : Size) => storeTyped_sc (imm := imm) (size := size) on ready places
  exact ⟨run .word, run .half, fun address => run .byte address (Nat.mod_one _)⟩

/-! ### The local space -/

theorem localArea_of_dspm {a : Word} (low : a.toNat < 0x10000) : localArea a = .dataScratchpad a.toNat := by
  rw [localArea, if_pos low]

theorem localArea_of_ispm {a : Word} (low : 0x10000 ≤ a.toNat) (high : a.toNat < 0x20000) :
    localArea a = .instructionScratchpad (a.toNat - 0x10000) := by
  rw [localArea, if_neg (by omega), if_pos high]

theorem loadTyped_dspm {g : PredOp} {rd ra : GReg} {imm : BitVec 7} {s : State} {at_ : Nat → Byte} {ea : Word}
    (on : s.ready g [ra, rd]) (low : ea.toNat < 0x10000) (bytes : ∀ k, at_ k = s.mem.dspm.read (ea.toNat + k))
    {size : Size} (signed : Bool) (address : ea = effective (s.reg ra) size imm) (whole : ea.toNat % size.bytes = 0)
    (inside : ea.toNat + size.bytes ≤ s.cfg.dspmSize) :
    loadTyped .lm size signed g rd ra imm s = .next (s.loaded rd (loadedValue signed size at_)) := by
  have access : s.loadFrom .lm ea size = .value (s.mem.dspm.readWord (span ea.toNat size.bytes)) s := by
    rw [State.loadFrom_lm whole, State.loadLocal, localArea_of_dspm low]
    exact if_neg (Nat.not_lt.mpr inside)
  subst address
  rw [loadTyped_of_value on .lm size signed imm access, extend_readWord signed (map_read_span bytes)]

/-- Settles O24: `loadTyped_dspm`, at each size. -/
theorem loadScratchpad : Obligations.LoadScratchpad := by
  unfold Obligations.LoadScratchpad
  intro g rd ra imm s ea at_ on low bytes
  have run := fun (size : Size) (signed : Bool) => loadTyped_dspm (imm := imm) (size := size) on low bytes signed
  refine ⟨run .word false, fun address whole inside => ⟨?_, ?_⟩, fun address inside => ⟨?_, ?_⟩⟩
  · exact run .half true address whole inside
  · exact run .half false address whole inside
  · exact run .byte true address (Nat.mod_one _) inside
  · exact run .byte false address (Nat.mod_one _) inside

theorem State.storeLocal_ispm {s : State} {a : Word} {size : Size} (low : 0x10000 ≤ a.toNat) (high : a.toNat < 0x20000)
    (inside : a.toNat - 0x10000 + size.bytes ≤ s.cfg.ispmSize) (v : Word) : s.storeLocal a size v = .done { s with
      mem := { s.mem with ispm := s.mem.ispm.writeWord (span (a.toNat - 0x10000) size.bytes) v }
      marks := { s.marks with ispmStale := s.marks.ispmStale.fill (span (a.toNat - 0x10000) size.bytes) 1 } } := by
  rw [State.storeLocal, localArea_of_ispm low high]
  exact if_neg (Nat.not_lt.mpr inside)

theorem stored_span (m : Memory) (a n : Nat) (v : Word) : Stored m (m.writeWord (span a n) v) (a + ·) n v :=
  Memory.stored_writeWord rfl fun _ _ _ _ same => Nat.add_left_cancel same

section
variable {g : PredOp} {ra rs : GReg} {imm : BitVec 7} {s : State} {ea : Word} {size : Size}
variable (on : s.ready g [ra, rs]) (address : ea = effective (s.reg ra) size imm) (whole : ea.toNat % size.bytes = 0)
include on address whole

theorem storeTyped_dspm (low : ea.toNat < 0x10000) (inside : ea.toNat + size.bytes ≤ s.cfg.dspmSize) :
    ∃ c, storeTyped .lm size g ra rs imm s = .next { s with mem := { s.mem with dspm := c } } ∧
      Stored s.mem.dspm c (ea.toNat + ·) size.bytes (s.reg rs) := by
  subst address
  refine ⟨_, storeTyped_of_done on .lm size imm ?_, stored_span _ _ _ _⟩
  rw [State.storeTo_lm whole, State.storeLocal, localArea_of_dspm low]
  exact if_neg (Nat.not_lt.mpr inside)

theorem storeTyped_ispm (low : 0x10000 ≤ ea.toNat) (high : ea.toNat < 0x20000)
    (inside : ea.toNat - 0x10000 + size.bytes ≤ s.cfg.ispmSize) :
    ∃ c m, storeTyped .lm size g ra rs imm s =
        .next { s with mem := { s.mem with ispm := c }, marks := { s.marks with ispmStale := m } } ∧
      Stored s.mem.ispm c (ea.toNat - 0x10000 + ·) size.bytes (s.reg rs) ∧
      ∀ k, k < size.bytes → m.read (ea.toNat - 0x10000 + k) ≠ 0 := by
  subst address
  refine ⟨_, _, storeTyped_of_done on .lm size imm
    ((State.storeTo_lm whole _).trans (State.storeLocal_ispm low high inside _)), stored_span _ _ _ _, fun k hk => ?_⟩
  rw [Memory.read_fill, if_pos ((mem_span _ _ _).mpr (by omega))]
  decide

end

/-- Settles O27: the two scratchpads, at each size. -/
theorem storeScratchpads : Obligations.StoreScratchpads := by
  unfold Obligations.StoreScratchpads
  rintro g ra rs imm s i n ea on (⟨rfl, rfl, address⟩ | ⟨rfl, rfl, address⟩ | ⟨rfl, rfl, address⟩) whole
  · exact ⟨storeTyped_dspm (size := .word) on address whole, storeTyped_ispm (size := .word) on address whole⟩
  · exact ⟨storeTyped_dspm (size := .half) on address whole, storeTyped_ispm (size := .half) on address whole⟩
  · exact ⟨storeTyped_dspm (size := .byte) on address whole, storeTyped_ispm (size := .byte) on address whole⟩

/-! ### Global memory -/

section
variable {s : State} {ea : Word} {pa : Nat} {size : Size}

theorem State.loadGlobal_of_place (cached : Bool) (place : s.place .read ea size.bytes = .at pa)
    (apart : s.aliasesStack ea size.bytes = false) (shown : s.marks.hides cached (span pa size.bytes) = false) :
    s.loadGlobal cached ea size = .value (s.mem.gm.readWord (span pa size.bytes)) s := by
  simp [State.loadGlobal, place, apart, shown]

theorem State.storeGlobal_of_place (cached : Bool) (v : Word) (place : s.place .write ea size.bytes = .at pa)
    (apart : s.aliasesStack ea size.bytes = false) :
    s.storeGlobal cached ea size v = .done (s.writeGlobal cached pa size.bytes v) := by
  simp [State.storeGlobal, place, apart]

end

theorem loadTyped_of_loadGlobal {space : Space} {cached : Bool} {g : PredOp} {rd ra : GReg} {imm : BitVec 7} {s : State}
    {at_ : Nat → Byte} {ea : Word} {pa : Nat} {size : Size}
    (goes : s.loadFrom space ea size = s.loadGlobal cached ea size) (on : s.ready g [ra, rd])
    (bytes : ∀ k, at_ k = s.mem.gm.read (pa + k)) (address : ea = effective (s.reg ra) size imm)
    (place : s.reaches .read ea size.bytes pa) (apart : s.aliasesStack ea size.bytes = false)
    (shown : s.marks.hides cached (span pa size.bytes) = false) (signed : Bool) :
    loadTyped space size signed g rd ra imm s = .next (s.loaded rd (loadedValue signed size at_)) := by
  subst address
  have access := goes.trans (State.loadGlobal_of_place cached (State.place_of_reaches place) apart shown)
  rw [loadTyped_of_value on space size signed imm access, extend_readWord signed (map_read_span bytes)]

/-- Settles O25: the two ways to global memory, at each size. -/
theorem loadGlobal : Obligations.LoadGlobal := by
  unfold Obligations.LoadGlobal
  intro g rd ra imm s i n pa ea v at_ marked on bytes ways whole place apart unmarked
  have past {size : Size} (whole : ea.toNat % size.bytes = 0) :=
    loadTyped_of_loadGlobal (s := s) (State.loadFrom_gm whole) on bytes (imm := imm)
  obtain ⟨rfl, way⟩ | ⟨global, rfl, way⟩ := ways
  · have shown : s.marks.hides false (span pa n) = false := Memory.anySet_span_false unmarked
    obtain ⟨rfl, rfl, address, rfl⟩ | ⟨rfl, rfl, address, rfl⟩ | ⟨rfl, rfl, address, rfl⟩ | ⟨rfl, rfl, address, rfl⟩ |
      ⟨rfl, rfl, address, rfl⟩ := way
    · exact past (size := .word) whole address place apart shown false
    · exact past (size := .half) whole address place apart shown true
    · exact past (size := .half) whole address place apart shown false
    · exact past (size := .byte) whole address place apart shown true
    · exact past (size := .byte) whole address place apart shown false
  · have shown : s.marks.hides true (span pa n) = false := Memory.anySet_span_false unmarked
    have through {size : Size} (whole : ea.toNat % size.bytes = 0) :=
      loadTyped_of_loadGlobal (s := s) (State.loadFrom_dc whole global) on bytes (imm := imm)
    obtain ⟨rfl, rfl, address, rfl⟩ | ⟨rfl, rfl, address, rfl⟩ | ⟨rfl, rfl, address, rfl⟩ | ⟨rfl, rfl, address, rfl⟩ |
      ⟨rfl, rfl, address, rfl⟩ := way
    · exact through (size := .word) whole address place apart shown false
    · exact through (size := .half) whole address place apart shown true
    · exact through (size := .half) whole address place apart shown false
    · exact through (size := .byte) whole address place apart shown true
    · exact through (size := .byte) whole address place apart shown false

theorem storeTyped_of_storeGlobal {space : Space} {cached : Bool} {g : PredOp} {ra rs : GReg} {imm : BitVec 7}
    {s : State} {ea : Word} {pa : Nat} {size : Size}
    (goes : ∀ v, s.storeTo space ea size v = s.storeGlobal cached ea size v) (on : s.ready g [ra, rs])
    (address : ea = effective (s.reg ra) size imm) (place : s.reaches .write ea size.bytes pa)
    (apart : s.aliasesStack ea size.bytes = false) :
    ∃ c m, storeTyped space size g ra rs imm s = .next { s with mem := { s.mem with gm := c }, marks := m } ∧
      Stored s.mem.gm c (pa + ·) size.bytes (s.reg rs) := by
  have access := (goes (s.reg rs)).trans
    (State.storeGlobal_of_place cached _ (State.place_of_reaches place) apart)
  exact ⟨_, _, storeTyped_of_done on space size imm (address ▸ access), stored_span _ _ _ _⟩

/-- Settles O28: the two ways to global memory, at each size. -/
theorem storeGlobal : Obligations.StoreGlobal := by
  unfold Obligations.StoreGlobal
  intro g ra rs imm s i n pa ea on ways whole place apart
  have past {size : Size} (whole : ea.toNat % size.bytes = 0) :=
    storeTyped_of_storeGlobal (s := s) (State.storeTo_gm whole) on (imm := imm) (pa := pa)
  have through {size : Size} (whole : ea.toNat % size.bytes = 0) (global : s.exc.localMode = false) :=
    storeTyped_of_storeGlobal (s := s) (State.storeTo_dc whole global) on (imm := imm) (pa := pa)
  obtain ⟨rfl, rfl, address⟩ | ⟨rfl, rfl, address⟩ | ⟨rfl, rfl, address⟩ |
    ⟨global, ⟨rfl, rfl, address⟩ | ⟨rfl, rfl, address⟩ | ⟨rfl, rfl, address⟩⟩ := ways
  · exact past (size := .word) whole address place apart
  · exact past (size := .half) whole address place apart
  · exact past (size := .byte) whole address place apart
  · exact through (size := .word) whole global address place apart
  · exact through (size := .half) whole global address place apart
  · exact through (size := .byte) whole global address place apart

end Sys2Proof.Machine
end

section
/-! PROOFS. A load after a store, and the accesses that are refused or raise `IllegalMemoryAccess` (20_memory R68, R73,
R77, R90, R101; 48_stack_control R331 to R339). -/
namespace Sys2Proof.Machine

/-! ### A load after a store -/

/-- What a store leaves of the things on which the place of an access depends. -/
theorem State.reaches_writeGlobal (s : State) (cached : Bool) (pa n : Nat) (v : Word) (k : AccessKind) (ea : Word)
    (m : Nat) : (s.writeGlobal cached pa n v).place k ea m = s.place k ea m ∧
      (s.writeGlobal cached pa n v).aliasesStack ea m = s.aliasesStack ea m := ⟨rfl, rfl⟩

theorem State.place_congr {s : State} {k j : AccessKind} {ea : Word} (n : Nat)
    (h : s.translate k ea = s.translate j ea) : s.place k ea n = s.place j ea n := by
  rw [State.place, State.place, h]

/-- A global store that is done was to a place outside the stack-cache window. -/
theorem State.place_of_storeGlobal {s t : State} {cached : Bool} {ea : Word} {size : Size} {v : Word}
    (h : s.storeGlobal cached ea size v = .done t) : ∃ pa, s.place .write ea size.bytes = .at pa ∧
      s.aliasesStack ea size.bytes = false ∧ t = s.writeGlobal cached pa size.bytes v := by
  unfold State.storeGlobal at h
  split at h
  next => cases h
  next => cases h
  next pa place =>
    cases apart : s.aliasesStack ea size.bytes with
    | true => simp [apart] at h
    | false =>
      simp only [apart, Bool.false_eq_true, if_false, Store.done.injEq] at h
      exact ⟨pa, place, rfl, h.symm⟩

/-- A global word load after the store of that word: the bytes are those stored. -/
theorem State.loadGlobal_writeGlobal {s : State} {cached : Bool} {ea : Word} {pa : Nat} {v : Word}
    (place : s.place .read ea 4 = .at pa) (apart : s.aliasesStack ea 4 = false)
    (shown : (s.writeGlobal cached pa 4 v).marks.hides cached (span pa 4) = false) :
    (s.writeGlobal cached pa 4 v).loadGlobal cached ea .word = .value v (s.writeGlobal cached pa 4 v) := by
  obtain ⟨samePlace, sameAlias⟩ := s.reaches_writeGlobal cached pa 4 v .read ea 4
  rw [State.loadGlobal_of_place cached (samePlace.trans place) (sameAlias.trans apart) shown]
  exact congrArg (Load.value · _) (Memory.readWord_writeWord_four _ _ v (nodup_span _ _) (length_span _ _))

/-- A word store that entered no handler was done. -/
theorem storeTyped_word_done {space : Space} {g : PredOp} {ra rs : GReg} {imm : BitVec 7} {s t : State}
    (on : s.ps g = true) (h : storeTyped space .word g ra rs imm s = .next t) (unentered : t.excEntered = false) :
    (effective (s.reg ra) .word imm).toNat % 4 = 0 ∧
      s.storeTo space (effective (s.reg ra) .word imm) .word (s.reg rs) = .done t := by
  rw [storeTyped, State.guarded_of_true on] at h
  have access := (State.use_next (State.use_next h).2).2
  by_cases whole : (effective (s.reg ra) .word imm).toNat % 4 = 0
  · split at access
    next u done => exact ⟨whole, done.trans (congrArg Store.done (Host.Outcome.next.inj access))⟩
    next => exact absurd (State.raise_next access).2 (not_takeException unentered)
    next => cases access
    next => cases access
  · rw [State.storeTo_of_misaligned (size := .word) space _ whole] at access
    cases access

/-- Settles O29: what is loaded is what `loadGlobal_writeGlobal` says, and the marks of the store do not hide it. -/
theorem storeThenLoadGlobal : Obligations.StoreThenLoadGlobal := by
  unfold Obligations.StoreThenLoadGlobal
  intro g h ra rs rd imm s t on ready global unentered sameAddress
  refine ⟨fun stored => ?through, fun stored clean => ?past⟩
  case through =>
    obtain ⟨whole, done⟩ := storeTyped_word_done on stored unentered
    rw [State.storeTo_dc (size := .word) whole global] at done
    obtain ⟨pa, place, apart, rfl⟩ := State.place_of_storeGlobal done
    have shown : (s.writeGlobal true pa 4 (s.reg rs)).marks.hides true (span pa 4) = false :=
      Memory.anySet_span_false fun k hk => by
        show (s.marks.dcStale.fill (span pa 4) 0).read (pa + k) = 0
        rw [Memory.read_fill, if_pos ((mem_span _ _ _).mpr (by omega))]
    have access := State.loadGlobal_writeGlobal ((State.place_congr 4 sameAddress).trans place) apart shown
    have goes := State.loadFrom_dc (s := s.writeGlobal true pa 4 (s.reg rs)) (size := .word) whole global
    exact loadTyped_of_value ready .dc .word false imm (goes.trans access)
  case past =>
    obtain ⟨whole, done⟩ := storeTyped_word_done on stored unentered
    rw [State.storeTo_gm (size := .word) whole] at done
    obtain ⟨pa, place, apart, rfl⟩ := State.place_of_storeGlobal done
    have shown : (s.writeGlobal false pa 4 (s.reg rs)).marks.hides false (span pa 4) = false :=
      Memory.anySet_span_false fun k _ => clean (pa + k)
    have access := State.loadGlobal_writeGlobal ((State.place_congr 4 sameAddress).trans place) apart shown
    exact loadTyped_of_value ready .gm .word false imm ((State.loadFrom_gm (size := .word) whole).trans access)

/-! ### Refused operands -/

section
variable {s : State}

theorem State.stackReady_eq_false (h : s.sp.ss.toNat % 4 ≠ 0 ∨ s.sp.st.toNat % 4 ≠ 0 ∨ s.cfg.scSize < s.occupancy) :
    s.stackReady = false :=
  Bool.eq_false_iff.mpr fun ready => by
    obtain ⟨top, bottom, resident⟩ := State.stackReady_iff.mp ready
    omega

theorem State.loadSc_of_unready (unready : s.stackReady = false) (ea : Word) (n : Nat) :
    s.loadSc ea n = .refuse .stackPointers := by
  simp [State.loadSc, unready]

theorem State.storeSc_of_unready (unready : s.stackReady = false) (ea : Word) (n : Nat) (v : Word) :
    s.storeSc ea n v = .refuse .stackPointers := by
  simp [State.storeSc, unready]

theorem State.loadSc_of_outside (ready : s.stackReady = true) {ea : Word} {n : Nat}
    (above : s.occupancy < ea.toNat + n) : s.loadSc ea n = .refuse .stackWindow := by
  simp [State.loadSc, ready, State.inWindow, above]

theorem State.storeSc_of_outside (ready : s.stackReady = true) {ea : Word} {n : Nat}
    (above : s.occupancy < ea.toNat + n) (v : Word) : s.storeSc ea n v = .refuse .stackWindow := by
  simp [State.storeSc, ready, State.inWindow, above]

theorem toNat_stackBytes (size : BitVec 18) : (stackBytes size).toNat = 4 * size.toNat := by
  have := size.isLt
  simp only [stackBytes, BitVec.toNat_shiftLeft, BitVec.toNat_setWidth, Nat.shiftLeft_eq]
  omega

theorem State.stack_of_unready (unready : s.stackReady = false) (n : Word) :
    s.reserve n = .refused .stackPointers ∧ s.ensure n = .refused .stackPointers ∧
      s.free n = .refused .stackPointers ∧ s.spillTail n = .refused .stackPointers := by
  simp [State.reserve, State.ensure, State.free, State.spillTail, unready]

theorem State.reserve_of_large (ready : s.stackReady = true) {n : Word} (large : s.cfg.scSize < n.toNat) :
    s.reserve n = .refused .stackSize := by
  simp [State.reserve, ready, large]

theorem State.ensure_of_bad (ready : s.stackReady = true) {n : Word}
    (bad : n.toNat % 4 ≠ 0 ∨ s.cfg.scSize < n.toNat) : s.ensure n = .refused .stackSize := by
  rw [State.ensure, ready, Bool.not_true, if_neg Bool.false_ne_true, if_pos (by simpa using bad)]

theorem State.spillTail_of_bad (ready : s.stackReady = true) {n : Word}
    (bad : n.toNat % 4 ≠ 0 ∨ s.occupancy < n.toNat) : s.spillTail n = .refused .stackSize := by
  rw [State.spillTail, ready, Bool.not_true, if_neg Bool.false_ne_true, if_pos (by simpa using bad)]

theorem State.free_of_wrap (ready : s.stackReady = true) {n : Word} (wraps : 2 ^ 32 ≤ s.sp.st.toNat + n.toNat) :
    s.free n = .refused .stackWrap := by
  simp only [State.free, ready]
  exact if_pos wraps

end

theorem execSensR_of_ready {g : PredOp} {rs : GReg} {s : State} (on : s.ps g = true) (free : s.shadowed rs = false) :
    exec (.sensR g rs) s = s.ensure (s.reg rs) := by
  show execSensR g rs s = _
  rw [execSensR, State.guarded_of_true on, State.use_of_ready free]

theorem execSspillR_of_ready {g : PredOp} {rs : GReg} {s : State} (on : s.ps g = true) (free : s.shadowed rs = false) :
    exec (.sspillR g rs) s = s.spillTail (s.reg rs) := by
  show execSspillR g rs s = _
  rw [execSspillR, State.guarded_of_true on, State.use_of_ready free]

/-- The instructions that access the stack cache, one size at a time. -/
theorem exec_of_scAccess {g : PredOp} {r ra rs : GReg} {imm : BitVec 7} {z : Size} {i : Instr}
    (h : (z = .word ∧ i ∈ [Instr.lws g r ra imm, .sws g ra rs imm]) ∨
      (z = .half ∧ i ∈ [Instr.lhs g r ra imm, .lhus g r ra imm, .shs g ra rs imm]) ∨
      (z = .byte ∧ i ∈ [Instr.lbs g r ra imm, .lbus g r ra imm, .sbs g ra rs imm])) (s : State) :
    (∃ signed, exec i s = loadTyped .sc z signed g r ra imm s) ∨ exec i s = storeTyped .sc z g ra rs imm s := by
  simp only [List.mem_cons, List.not_mem_nil, or_false] at h
  obtain ⟨rfl, rfl | rfl⟩ | ⟨rfl, rfl | rfl | rfl⟩ | ⟨rfl, rfl | rfl | rfl⟩ := h
  · exact .inl ⟨_, rfl⟩
  · exact .inr rfl
  · exact .inl ⟨_, rfl⟩
  · exact .inl ⟨_, rfl⟩
  · exact .inr rfl
  · exact .inl ⟨_, rfl⟩
  · exact .inl ⟨_, rfl⟩
  · exact .inr rfl

/-- An access to the stack cache that is refused, load or store. -/
theorem exec_of_scRefused {g : PredOp} {r ra rs : GReg} {imm : BitVec 7} {z : Size} {i : Instr} {s : State} {ea : Word}
    {why : Refusal} (on : s.ready g [ra, r, rs])
    (access : (∃ signed, exec i s = loadTyped .sc z signed g r ra imm s) ∨ exec i s = storeTyped .sc z g ra rs imm s)
    (address : ea = effective (s.reg ra) z imm) (whole : ea.toNat % z.bytes = 0)
    (load : s.loadSc ea z.bytes = .refuse why) (store : ∀ v, s.storeSc ea z.bytes v = .refuse why) :
    exec i s = .refused why := by
  subst address
  obtain ⟨signed, e⟩ | e := access
  · exact e.trans (loadTyped_of_refuse (State.ready.mono on (by simp)) .sc z signed imm
      ((State.loadFrom_sc whole).trans load))
  · exact e.trans (storeTyped_of_refuse (State.ready.mono on (by simp)) .sc z imm
      ((State.storeTo_sc whole _).trans (store _)))

/-- Settles O31: the checks are made before anything else of the access or the stack operation. -/
theorem memoryOperandsChecked : Obligations.MemoryOperandsChecked := by
  unfold Obligations.MemoryOperandsChecked
  intro g r ra rs imm size s on
  rw [← toNat_stackBytes size]
  have load : s.ready g [ra, r] := State.ready.mono on (by simp)
  have store : s.ready g [ra, rs] := State.ready.mono on (by simp)
  have enabled := on.1
  have free := on.2 rs (by simp)
  refine ⟨fun misaligned i hi => ?word, fun misaligned i hi => ?half, fun unready i hi => ?pointers,
    fun z i ea access address whole => ⟨fun unready => ?scPointers, fun ready above => ?scWindow⟩,
    fun ready => ⟨fun large => ⟨?reserve, ?ensure⟩, fun large => ?spill, fun bad => ?ensureR, fun bad => ?spillR,
      fun wraps => ?free⟩⟩
  case word =>
    have loads space := loadTyped_of_refuse load space .word false imm (State.loadFrom_of_misaligned space misaligned)
    have stores space := storeTyped_of_refuse store space .word imm (State.storeTo_of_misaligned space _ misaligned)
    simp only [List.mem_cons, List.not_mem_nil, or_false] at hi
    rcases hi with rfl | rfl | rfl | rfl | rfl | rfl | rfl | rfl
    · exact loads .sc
    · exact loads .lm
    · exact loads .dc
    · exact loads .gm
    · exact stores .sc
    · exact stores .lm
    · exact stores .dc
    · exact stores .gm
  case half =>
    have loads space signed :=
      loadTyped_of_refuse load space .half signed imm (State.loadFrom_of_misaligned space misaligned)
    have stores space := storeTyped_of_refuse store space .half imm (State.storeTo_of_misaligned space _ misaligned)
    simp only [List.mem_cons, List.not_mem_nil, or_false] at hi
    rcases hi with rfl | rfl | rfl | rfl | rfl | rfl | rfl | rfl | rfl | rfl | rfl | rfl
    · exact loads .sc true
    · exact loads .lm true
    · exact loads .dc true
    · exact loads .gm true
    · exact loads .sc false
    · exact loads .lm false
    · exact loads .dc false
    · exact loads .gm false
    · exact stores .sc
    · exact stores .lm
    · exact stores .dc
    · exact stores .gm
  case pointers =>
    have unready := State.stackReady_eq_false unready
    have operation := fun n => State.stack_of_unready unready n
    have whole : ∀ a : Word, a.toNat % Size.byte.bytes = 0 := fun a => Nat.mod_one _
    have loads signed := loadTyped_of_refuse load .sc .byte signed imm
      ((State.loadFrom_sc (whole _)).trans (State.loadSc_of_unready unready _ _))
    have stores := storeTyped_of_refuse store .sc .byte imm
      ((State.storeTo_sc (whole _) _).trans (State.storeSc_of_unready unready _ _ _))
    simp only [List.mem_cons, List.not_mem_nil, or_false] at hi
    rcases hi with rfl | rfl | rfl | rfl | rfl | rfl | rfl | rfl | rfl
    · exact (State.guarded_of_true enabled _).trans (operation _).1
    · exact (State.guarded_of_true enabled _).trans (operation _).2.1
    · exact (State.guarded_of_true enabled _).trans (operation _).2.2.1
    · exact (State.guarded_of_true enabled _).trans (operation _).2.2.2
    · exact (execSensR_of_ready enabled free).trans (operation _).2.1
    · exact (execSspillR_of_ready enabled free).trans (operation _).2.2.2
    · exact loads true
    · exact loads false
    · exact stores
  case scPointers =>
    have unready := State.stackReady_eq_false unready
    exact exec_of_scRefused on (exec_of_scAccess access s) address whole (State.loadSc_of_unready unready _ _)
      (State.storeSc_of_unready unready _ _)
  case scWindow =>
    exact exec_of_scRefused on (exec_of_scAccess access s) address whole (State.loadSc_of_outside ready above)
      (State.storeSc_of_outside ready above)
  case reserve => exact (State.guarded_of_true enabled _).trans (State.reserve_of_large ready large)
  case ensure => exact (State.guarded_of_true enabled _).trans (State.ensure_of_bad ready (.inr large))
  case spill => exact (State.guarded_of_true enabled _).trans (State.spillTail_of_bad ready (.inr large))
  case ensureR => exact (execSensR_of_ready enabled free).trans (State.ensure_of_bad ready bad)
  case spillR => exact (execSspillR_of_ready enabled free).trans (State.spillTail_of_bad ready bad)
  case free => exact (State.guarded_of_true enabled _).trans (State.free_of_wrap ready wraps)

/-! ### The MMU, and accesses that are denied or unmapped -/

theorem segmentOf_eq {va : Word} {n : Fin 8} {off : Nat} (h : va.toNat = n.val * 2 ^ 29 + off) (low : off < 2 ^ 29) :
    segmentOf va = n ∧ va.toNat % 2 ^ 29 = off := by
  have bound := n.isLt
  have quotient : va.toNat / 2 ^ 29 % 8 = n.val := by omega
  exact ⟨Fin.ext quotient, by omega⟩

/-- The answer of an MMU, by the segment and the offset (20_memory R101). -/
theorem State.translate_of_mmu {s : State} (k : AccessKind) {va : Word} {n : Fin 8} {off : Nat}
    (mmu : s.cfg.hasMmu = true) (h : va.toNat = n.val * 2 ^ 29 + off) (low : off < 2 ^ 29) :
    s.translate k va =
      if s.userMode && !(decide (off < s.mmu.segConf[n].toNat % 2 ^ 29) && permitted s.mmu.segConf[n] k) then none
      else some (s.mmu.segBase[n] + BitVec.ofNat 32 off) := by
  obtain ⟨segment, offset⟩ := segmentOf_eq h low
  simp only [State.translate, mmu, if_true, segment, offset]

theorem permitted_eq {k : AccessKind} {bit : Nat}
    (h : k = .read ∧ bit = 31 ∨ k = .write ∧ bit = 30 ∨ k = .execute ∧ bit = 29) (conf : Word) :
    permitted conf k = conf.getLsbD bit := by
  obtain ⟨rfl, rfl⟩ | ⟨rfl, rfl⟩ | ⟨rfl, rfl⟩ := h <;> rfl

theorem State.place_of_unmapped {s : State} {k : AccessKind} {ea : Word} (h : s.globalUnmapped k ea) (n : Nat) :
    s.place k ea n = .fault := by
  obtain denied | ⟨w, translated, high⟩ := h
  · simp [State.place, denied]
  · simp [State.place, translated, high]

theorem State.loadGlobal_of_unmapped {s : State} {ea : Word} (h : s.globalUnmapped .read ea) (cached : Bool)
    (size : Size) : s.loadGlobal cached ea size = .fault := by
  simp [State.loadGlobal, State.place_of_unmapped h]

theorem State.storeGlobal_of_unmapped {s : State} {ea : Word} (h : s.globalUnmapped .write ea) (cached : Bool)
    (size : Size) (v : Word) : s.storeGlobal cached ea size v = .fault := by
  simp [State.storeGlobal, State.place_of_unmapped h]

/-- The areas of the local space where nothing is. -/
theorem localArea_of_unmapped {s : State} {a : Word} (h : s.localUnmapped a) : localArea a = .unmapped ∨
    localArea a = .network ∧ s.cfg.devices.noc = false ∨
    ∃ k off, localArea a = .device k off ∧ s.cfg.deviceAt k = none := by
  have bound := a.isLt
  obtain ⟨low, high⟩ | beyond | ⟨low, high, absent⟩ | ⟨low, high, absent⟩ := h
  · exact .inl (by rw [localArea, if_neg (by omega), if_neg (by omega), if_pos (by omega)])
  · exact .inl (by
      rw [localArea, if_neg (by omega), if_neg (by omega), if_neg (by omega), if_neg (by omega), if_neg (by omega)])
  · exact .inr (.inl ⟨by
      rw [localArea, if_neg (by omega), if_neg (by omega), if_neg (by omega), if_pos (by omega)], absent⟩)
  · exact .inr (.inr ⟨_, _, by
      rw [localArea, if_neg (by omega), if_neg (by omega), if_neg (by omega), if_neg (by omega), if_pos (by omega)],
      absent⟩)

theorem State.loadLocal_of_unmapped {s : State} {a : Word} (h : s.localUnmapped a) (size : Size) :
    s.loadLocal a size = .fault := by
  obtain area | ⟨area, absent⟩ | ⟨k, off, area, absent⟩ := localArea_of_unmapped h <;>
    simp only [State.loadLocal, area]
  · simp [absent]
  · simp [absent]

theorem State.storeLocal_of_unmapped {s : State} {a : Word} (h : s.localUnmapped a) (size : Size) (v : Word) :
    s.storeLocal a size v = .fault := by
  obtain area | ⟨area, absent⟩ | ⟨k, off, area, absent⟩ := localArea_of_unmapped h <;>
    simp only [State.storeLocal, area]
  · simp [absent]
  · simp [absent]

/-- Settles O32: the translation by `translate_of_mmu`; and an access to nothing is a fault in each space. -/
theorem unmappedAccessRaises : Obligations.UnmappedAccessRaises := by
  unfold Obligations.UnmappedAccessRaises
  refine ⟨fun s k va plain => ?plain, fun s k va n off bit mmu address low kind => ⟨fun allowed => ?allowed,
    fun user bad => ?denied⟩, fun g r ra rs imm s size ea on address whole =>
      ⟨fun unmapped i access => ?locally, fun unmapped i access => ?loading, fun unmapped i access => ?storing⟩⟩
  case plain => simp [State.translate, plain]
  case allowed =>
    rw [State.translate_of_mmu k mmu address low, permitted_eq kind]
    obtain privileged | ⟨inside, permission⟩ := allowed
    · rw [privileged]
      rfl
    · rw [permission, decide_eq_true inside, Bool.and_self, Bool.not_true, Bool.and_false]
      rfl
  case denied =>
    rw [State.translate_of_mmu k mmu address low, permitted_eq kind]
    obtain beyond | forbidden := bad
    · rw [user, decide_eq_false (Nat.not_lt.mpr beyond)]
      rfl
    · rw [user, forbidden, Bool.and_false]
      rfl
  all_goals
    subst address
    have loads (space : Space) := loadTyped_of_fault (State.ready.mono on (by simp) : s.ready g [ra, r]) space size
    have stores (space : Space) := storeTyped_of_fault (State.ready.mono on (by simp) : s.ready g [ra, rs]) space size
  case locally =>
    simp only [List.mem_cons, List.not_mem_nil, or_false] at access
    have loads signed := loads .lm signed imm ((State.loadFrom_lm whole).trans (State.loadLocal_of_unmapped unmapped _))
    have stores := stores .lm imm ((State.storeTo_lm whole _).trans (State.storeLocal_of_unmapped unmapped _ _))
    obtain ⟨rfl, rfl | rfl⟩ | ⟨rfl, rfl | rfl | rfl⟩ | ⟨rfl, rfl | rfl | rfl⟩ := access
    · exact loads false
    · exact stores
    · exact loads true
    · exact loads false
    · exact stores
    · exact loads true
    · exact loads false
    · exact stores
  case loading =>
    simp only [List.mem_cons, List.not_mem_nil, or_false] at access
    have past signed := loads .gm signed imm
      ((State.loadFrom_gm whole).trans (State.loadGlobal_of_unmapped unmapped false _))
    have through global signed := loads .dc signed imm
      ((State.loadFrom_dc whole global).trans (State.loadGlobal_of_unmapped unmapped true _))
    obtain ⟨rfl, rfl | ⟨global, rfl⟩⟩ | ⟨rfl, (rfl | rfl) | ⟨global, rfl | rfl⟩⟩ |
      ⟨rfl, (rfl | rfl) | ⟨global, rfl | rfl⟩⟩ := access
    · exact past false
    · exact through global false
    · exact past true
    · exact past false
    · exact through global true
    · exact through global false
    · exact past true
    · exact past false
    · exact through global true
    · exact through global false
  case storing =>
    have past := stores .gm imm ((State.storeTo_gm whole _).trans (State.storeGlobal_of_unmapped unmapped false _ _))
    have through global := stores .dc imm
      ((State.storeTo_dc whole global _).trans (State.storeGlobal_of_unmapped unmapped true _ _))
    obtain ⟨rfl, rfl | ⟨global, rfl⟩⟩ | ⟨rfl, rfl | ⟨global, rfl⟩⟩ | ⟨rfl, rfl | ⟨global, rfl⟩⟩ := access
    · exact past
    · exact through global
    · exact past
    · exact through global
    · exact past
    · exact through global

end Sys2Proof.Machine
end

section
/-! PROOFS. The registers of the exception unit, of CpuInfo and of the MMU, and user-mode stores to them
(60_exceptions R403 to R410, R431, R440; 20_memory R100). -/
namespace Sys2Proof.Machine

/-! ### The exception unit -/

theorem vecIndex_of (n : Fin 32) : vecIndex (0x80 + 4 * n.val) = some n := by
  have bound := n.isLt
  have quotient : (0x80 + 4 * n.val - 0x80) / 4 % 32 = n.val := by omega
  rw [vecIndex, if_pos (by simp; omega)]
  exact congrArg some (Fin.ext quotient)

theorem registerOffset_vec (n : Fin 32) : registerOffset (0x80 + 4 * n.val) := by
  have bound := n.isLt
  constructor <;> omega

section
variable {s : State} (free : s.xretPending = false)
include free

theorem State.loadExc_vec (n : Fin 32) : s.loadExc (0x80 + 4 * n.val) = .value s.exc.vec[n] s := by
  simp only [State.loadExc, free, Bool.false_and, vecIndex_of]
  rfl

theorem State.storeExc_vec (privileged : s.userMode = false) (n : Fin 32) (v : Word) : s.storeExc (0x80 + 4 * n.val) v =
    .done { s with exc := { s.exc with vec := s.exc.vec.set n.val v n.isLt } } := by
  simp only [State.storeExc, free, privileged, Bool.false_and, vecIndex_of]
  rfl

theorem State.loadExc_register : s.loadExc 0x00 = .value s.exc.status s ∧ s.loadExc 0x04 = .value s.exc.mask s ∧
    s.loadExc 0x08 = .value s.exc.pend s ∧ s.loadExc 0x0c = .value s.exc.source s := by
  simp only [State.loadExc, free, Bool.false_and]
  exact ⟨rfl, rfl, rfl, rfl⟩

theorem State.storeExc_register (privileged : s.userMode = false) (v : Word) :
    s.storeExc 0x00 v = .done { s with exc := { s.exc with status := v } } ∧
    s.storeExc 0x04 v = .done { s with exc := { s.exc with mask := v } } ∧
    s.storeExc 0x08 v = .done { s with exc := { s.exc with pend := v } } ∧
    s.storeExc 0x0c v = .refuse .registerAccess ∧
    s.storeExc 0x10 v = .done (if s.cfg.hasSleep then { s with sleeping := true } else s) ∧
    s.storeExc 0x14 v = .done (s.cacheControl v) := by
  simp only [State.storeExc, free, privileged, Bool.false_and]
  exact ⟨rfl, rfl, rfl, rfl, rfl, rfl⟩

end

/-- A store to `cachectrl`, field by field. -/
theorem State.cacheControl_eq (s : State) (v : Word) : s.cacheControl v = { s with
    marks := { s.marks with
      dcStale := if v.getLsbD 0 then s.marks.dcDirty else s.marks.dcStale
      icStale := if v.getLsbD 1 then s.marks.icStale.map (fun c => (c.1, if c.2 = 1 then 2 else c.2))
        else s.marks.icStale }
    exc := { s.exc with localMode := s.exc.localMode != v.getLsbD 31 } } := by
  rw [State.cacheControl]
  generalize v.getLsbD 0 = data
  generalize v.getLsbD 1 = code
  cases data <;> cases code <;> rfl

/-- One element of a vector set: it, and the others. -/
theorem vector_set_spec {n : Nat} (v : Vector Word n) (i : Fin n) (x : Word) :
    (v.set i.val x i.isLt)[i] = x ∧ ∀ k : Fin n, k ≠ i → (v.set i.val x i.isLt)[k] = v[k] := by
  refine ⟨Vector.getElem_set_self i.isLt, fun k other => ?_⟩
  exact Vector.getElem_set_ne i.isLt k.isLt fun same => other (Fin.ext same.symm)

/-- Settles O33: a word access to a register answers what the exception unit's own load or store gives there. -/
theorem exceptionUnitRegisters : Obligations.ExceptionUnitRegisters := by
  unfold Obligations.ExceptionUnitRegisters
  rintro g r ra rs imm s _ on rfl free
  have load {off : Nat} (reg : registerOffset off) :=
    exec_lwl_of_registerAt (d := .excUnit) (imm := imm) (on.mono (rs' := [ra, r]) (by simp)) reg
  have store {off : Nat} (reg : registerOffset off) :=
    exec_swl_of_registerAt (d := .excUnit) (imm := imm) (on.mono (rs' := [ra, rs]) (by simp)) reg
  obtain ⟨status, mask, pend, source⟩ := State.loadExc_register free
  refine ⟨fun at_ => ?_, fun at_ => ?_, fun at_ => ?_, fun at_ => ?_, fun n at_ => ?_, fun privileged => ?stores⟩
  · rw [load (by decide) at_, State.loadDevice, status]
    rfl
  · rw [load (by decide) at_, State.loadDevice, mask]
    rfl
  · rw [load (by decide) at_, State.loadDevice, pend]
    rfl
  · rw [load (by decide) at_, State.loadDevice, source]
    rfl
  · rw [load (registerOffset_vec n) at_, State.loadDevice, State.loadExc_vec free]
    rfl
  case stores =>
    obtain ⟨status, mask, pend, source, sleep, cachectrl⟩ := State.storeExc_register free privileged (s.reg rs)
    refine ⟨fun at_ => ?_, fun at_ => ?_, fun at_ => ?_, fun at_ => ?_, fun at_ => ?_, fun at_ => ?_, fun n at_ => ?_⟩
    · rw [store (by decide) at_, State.storeDevice, status]
      rfl
    · rw [store (by decide) at_, State.storeDevice, mask]
      rfl
    · rw [store (by decide) at_, State.storeDevice, pend]
      rfl
    · rw [store (by decide) at_, State.storeDevice, source]
      rfl
    · rw [store (by decide) at_, State.storeDevice, sleep]
      rfl
    · rw [store (by decide) at_, State.storeDevice, cachectrl, ← State.cacheControl_eq]
      rfl
    · refine ⟨_, ?_, vector_set_spec s.exc.vec n (s.reg rs)⟩
      rw [store (registerOffset_vec n) at_, State.storeDevice, State.storeExc_vec free privileged]
      rfl

/-! ### Stores in user mode -/

/-- Settles O34: in both windows the mode is looked at before the register. -/
theorem userStoreToProtectedRegisters : Obligations.UserStoreToProtectedRegisters := by
  unfold Obligations.UserStoreToProtectedRegisters
  rintro g ra rs imm s _ off on rfl whole window user
  have answer : s.afterStore s.userStore = if s.cfg.userWriteFaults then s.illegalAccess else .next s := by
    cases faults : s.cfg.userWriteFaults <;> simp [State.userStore, faults, State.afterStore]
  have offset {d : Device} (at_ : s.registerAt d off (effective (s.reg ra) .word imm)) (low : off < 0x100) :
      registerOffset off := by
    obtain ⟨k, -, address⟩ := at_
    constructor <;> omega
  obtain ⟨at_, low, free⟩ | ⟨at_, low⟩ := window
  · rw [exec_swl_of_registerAt on (offset at_ low) at_, ← answer, State.storeDevice]
    simp [State.storeExc, free, user, low]
  · rw [exec_swl_of_registerAt on (offset at_ (by omega)) at_, ← answer, State.storeDevice]
    simp [State.storeMmu, user, low]

/-! ### CpuInfo and the MMU -/

theorem Config.extMemConfWord_eq (c : Config) : c.extMemConfWord =
    BitVec.ofNat 32 (c.burstLength.toNat * 256 + if c.combinesWrites then 1 else 0) := by
  have bound := c.burstLength.isLt
  apply BitVec.eq_of_toNat_eq
  refine (toNat_append_eq (0#16 ++ c.burstLength) _).trans ?_
  rw [toNat_append_eq, BitVec.toNat_ofNat, BitVec.toNat_ofNat]
  cases c.combinesWrites <;>
    simp only [Bool.false_eq_true, if_false, if_true, BitVec.toNat_ofNat, Nat.reduceMod, Nat.reducePow] <;> omega

/-- A cache's configuration: its type above the 24 bits of its own. -/
theorem confWord_eq (kind : BitVec 8) (conf : BitVec 24) :
    (kind ++ conf : Word) = BitVec.ofNat 32 (kind.toNat * 2 ^ 24 + conf.toNat) := by
  have bound := conf.isLt
  apply BitVec.eq_of_toNat_eq
  rw [BitVec.toNat_ofNat]
  refine (toNat_append_eq kind conf).trans ?_
  omega

theorem Config.icacheConfWord_eq (c : Config) : c.icacheConfWord =
    BitVec.ofNat 32 ((if c.methodCache then 1 else 2) * 2 ^ 24 + c.icacheConf.toNat) := by
  rw [Config.icacheConfWord, confWord_eq]
  cases c.methodCache <;> rfl

theorem Config.dcacheConfWord_eq (c : Config) : c.dcacheConfWord =
    BitVec.ofNat 32 ((if c.writeBackDcache then 0 else 1) * 2 ^ 24 + c.dcacheConf.toNat) := by
  rw [Config.dcacheConfWord, confWord_eq]
  cases c.writeBackDcache <;> rfl

theorem State.loadCpuInfo_register {s : State} {off : Nat} {v : Word} (low : off < 0x8000)
    (named : s.cfg.cpuInfo off = some v) : s.loadCpuInfo off = .value v s := by
  rw [State.loadCpuInfo, if_neg (by simp; omega), named]

theorem State.loadCpuInfo_rom {s : State} {off : Nat} (inside : off < 0x1000) : s.loadCpuInfo (0x8000 + off) =
    .value (bigWord fun k => s.mem.bootData.read (off + k)) s := by
  rw [State.loadCpuInfo, if_pos (by simp; omega), Nat.add_sub_cancel_left]
  exact congrArg (Load.value · s) (wordOf_four _ _ _ _)

section
variable {s : State} (n : Fin 8)

theorem State.loadMmu_base : s.loadMmu (8 * n.val) = .value s.mmu.segBase[n] s := by
  have index : Fin.ofNat 8 (8 * n.val / 8) = n := Fin.ext (show 8 * n.val / 8 % 8 = n.val by omega)
  rw [State.loadMmu, if_pos (by omega), if_pos (by omega)]
  exact congrArg (fun k : Fin 8 => Load.value s.mmu.segBase[k] s) index

theorem State.loadMmu_conf : s.loadMmu (8 * n.val + 4) = .value s.mmu.segConf[n] s := by
  have index : Fin.ofNat 8 ((8 * n.val + 4) / 8) = n := Fin.ext (show (8 * n.val + 4) / 8 % 8 = n.val by omega)
  rw [State.loadMmu, if_pos (by omega), if_neg (by omega)]
  exact congrArg (fun k : Fin 8 => Load.value s.mmu.segConf[k] s) index

theorem State.storeMmu_base (privileged : s.userMode = false) (v : Word) : s.storeMmu (8 * n.val) v =
    .done { s with mmu := { s.mmu with segBase := s.mmu.segBase.set n.val v n.isLt } } := by
  have index : Fin.ofNat 8 (8 * n.val / 8) = n := Fin.ext (show 8 * n.val / 8 % 8 = n.val by omega)
  rw [State.storeMmu, if_pos (by omega)]
  have whole : 8 * n.val % 8 = 0 := by omega
  simp only [privileged, index, whole, Bool.false_eq_true, if_false, if_true]

theorem State.storeMmu_conf (privileged : s.userMode = false) (v : Word) : s.storeMmu (8 * n.val + 4) v =
    .done { s with mmu := { s.mmu with segConf := s.mmu.segConf.set n.val v n.isLt } } := by
  have index : Fin.ofNat 8 ((8 * n.val + 4) / 8) = n := Fin.ext (show (8 * n.val + 4) / 8 % 8 = n.val by omega)
  rw [State.storeMmu, if_pos (by omega)]
  have second : ¬ (8 * n.val + 4) % 8 = 0 := by omega
  simp only [privileged, index, second, Bool.false_eq_true, if_false]

end

/-- Settles O60: CpuInfo by its table and its ROM, the MMU by its two registers to a segment. -/
theorem configurationRegisters : Obligations.ConfigurationRegisters := by
  unfold Obligations.ConfigurationRegisters
  rintro g r ra rs imm s _ on rfl
  have load {d : Device} {off : Nat} (reg : registerOffset off) :=
    exec_lwl_of_registerAt (d := d) (imm := imm) (on.mono (rs' := [ra, r]) (by simp)) reg
  have store {d : Device} {off : Nat} (reg : registerOffset off) :=
    exec_swl_of_registerAt (d := d) (imm := imm) (on.mono (rs' := [ra, rs]) (by simp)) reg
  refine ⟨fun off v named at_ => ?register, fun off inside whole at_ => ?rom, fun off inside whole at_ => ?kept,
    fun n at_ => ⟨?_, fun privileged => ?_⟩, fun n at_ => ⟨?_, fun privileged => ?_⟩⟩
  case register =>
    rw [← Config.extMemConfWord_eq, ← Config.icacheConfWord_eq, ← Config.dcacheConfWord_eq] at named
    simp only [List.mem_cons, List.not_mem_nil, or_false, Prod.mk.injEq] at named
    have answer {k : Nat} {x : Word} (reg : registerOffset k ∧ k < 0x8000) (row : s.cfg.cpuInfo k = some x)
        (at_ : s.registerAt .cpuInfo k (effective (s.reg ra) .word imm)) :
        exec (.lwl g r ra imm) s = .next (s.loaded r x) := by
      rw [load reg.1 at_, State.loadDevice, State.loadCpuInfo_register reg.2 row]
      rfl
    obtain ⟨rfl, rfl⟩ | ⟨rfl, rfl⟩ | ⟨rfl, rfl⟩ | ⟨rfl, rfl⟩ | ⟨rfl, rfl⟩ | ⟨rfl, rfl⟩ | ⟨rfl, rfl⟩ | ⟨rfl, rfl⟩ |
      ⟨rfl, rfl⟩ | ⟨rfl, rfl⟩ | ⟨rfl, rfl⟩ | ⟨rfl, rfl⟩ | ⟨rfl, rfl⟩ | ⟨rfl, rfl⟩ := named <;>
      exact answer (by decide) rfl at_
  case rom =>
    rw [load (by constructor <;> omega) at_, State.loadDevice, State.loadCpuInfo_rom inside]
    rfl
  case kept => exact store ⟨inside, whole⟩ at_
  · rw [load (by constructor <;> omega) at_, State.loadDevice, State.loadMmu_base]
    rfl
  · refine ⟨_, ?_, vector_set_spec s.mmu.segBase n (s.reg rs)⟩
    rw [store (by constructor <;> omega) at_, State.storeDevice, State.storeMmu_base n privileged]
    rfl
  · rw [load (by constructor <;> omega) at_, State.loadDevice, State.loadMmu_conf]
    rfl
  · refine ⟨_, ?_, vector_set_spec s.mmu.segConf n (s.reg rs)⟩
    rw [store (by constructor <;> omega) at_, State.storeDevice, State.storeMmu_conf n privileged]
    rfl

end Sys2Proof.Machine
end

section
/-! PROOFS. Stack control: the pointers that move, and the bytes that are spilled and filled, word by word
(48_stack_control R333 to R339). -/
namespace Sys2Proof.Machine

/-! ### The operations, where their operands are in order -/

theorem stackBytes_eq (imm : BitVec 18) : stackBytes imm = BitVec.ofNat 32 (4 * imm.toNat) := by
  rw [← toNat_stackBytes, BitVec.ofNat_toNat, BitVec.setWidth_eq]

section
variable {s : State} (ready : s.stackReady = true) {n : Word}
include ready

theorem State.free_of_inside (inside : s.sp.st.toNat + n.toNat < 2 ^ 32) : s.free n =
    .next { s with sp := { s.sp with
      st := s.sp.st + n
      ss := if s.sp.ss.toNat < (s.sp.st + n).toNat then s.sp.st + n else s.sp.ss } } := by
  rw [State.free, ready, Bool.not_true, if_neg Bool.false_ne_true, if_neg (Nat.not_le.mpr inside)]

theorem State.reserve_of_small (small : n.toNat ≤ s.cfg.scSize) : s.reserve n =
    transferred (State.spillWords ((s.occupancy + n.toNat - s.cfg.scSize) / 4)
      { s with sp := { s.sp with st := s.sp.st - n } }) := by
  rw [State.reserve, ready, Bool.not_true, if_neg Bool.false_ne_true, if_neg (Nat.not_lt.mpr small)]

theorem State.spillTail_of_resident (whole : n.toNat % 4 = 0) (resident : n.toNat ≤ s.occupancy) :
    s.spillTail n = transferred (State.spillWords (n.toNat / 4) s) := by
  rw [State.spillTail, ready, Bool.not_true, if_neg Bool.false_ne_true, if_neg (by simp [whole, resident])]

theorem State.ensure_of_small (whole : n.toNat % 4 = 0) (small : n.toNat ≤ s.cfg.scSize) :
    s.ensure n = transferred (State.fillWords ((n.toNat - s.occupancy) / 4) s) := by
  rw [State.ensure, ready, Bool.not_true, if_neg Bool.false_ne_true, if_neg (by simp [whole, small])]

end

/-- Settles O36: a free changes the pointers only, and a reservation that fits spills no word. -/
theorem reserveAndFreeResident : Obligations.ReserveAndFreeResident := by
  unfold Obligations.ReserveAndFreeResident
  rintro g imm s n on ready rfl
  rw [← stackBytes_eq]
  refine ⟨fun inside => ?free, fun fits => ?reserve⟩
  case free => exact (State.guarded_of_true on _).trans (State.free_of_inside ready inside)
  case reserve =>
    refine (State.guarded_of_true on _).trans ((State.reserve_of_small ready (by omega)).trans ?_)
    rw [Nat.sub_eq_zero_of_le fits]
    rfl

/-! ### Words and their bytes -/

theorem extractLsb'_bigWord (f : Nat → Byte) {k : Nat} (hk : k < 4) :
    (bigWord f).extractLsb' (8 * (4 - 1 - k)) 8 = f k := by
  apply BitVec.eq_of_getLsbD_eq
  intro i hi
  rw [BitVec.getLsbD_extractLsb']
  simp only [bigWord, BitVec.getLsbD_append, hi, decide_true, Bool.true_and]
  match k with
  | 0 | 1 | 2 | 3 => grind

theorem readWord_range_four (m : Memory) (addr : Nat → Nat) :
    m.readWord ((List.range 4).map addr) = bigWord fun k => m.read (addr k) :=
  wordOf_four _ _ _ _

/-! ### Spills -/

/-- One spilled word, at the physical address that its global address has. -/
theorem State.spillWord_of_reaches {s : State} {pa : Nat} (goes : s.reaches .write (s.sp.ss - 4) 4 pa) :
    ∃ gm m, (∀ st, ({ s with sp := { s.sp with st := st } } : State).spillWord = .ok { s with
        sp := { s.sp with st := st, ss := s.sp.ss - 4 }, mem := { s.mem with gm := gm }, marks := m }) ∧
      (∀ b, b < 4 → gm.read (pa + b) = s.sc.read (s.scIndex (s.sp.ss - 4 + BitVec.ofNat 32 b))) ∧
      (∀ a, a < pa ∨ pa + 4 ≤ a → gm.read a = s.mem.gm.read a) := by
  obtain ⟨bytes, others⟩ := stored_span s.mem.gm pa 4 (s.sc.readWord (s.scSpan (s.sp.ss - 4) 4))
  refine ⟨_, s.marks.stored false s.cfg.writeBackDcache (span pa 4), fun st => ?_, fun b hb => ?_,
    fun a outside => others a fun k hk => by omega⟩
  · have place := State.place_of_reaches (s := { s with sp := { s.sp with st := st } }) goes
    simp only [State.spillWord, place]
    rfl
  · rw [bytes b hb, State.scSpan, readWord_range_four, extractLsb'_bigWord _ hb]

/-- Several spilled words, at disjoint physical addresses: each has the bytes of the stack cache that its global address
has there, and no other byte of global memory changes. -/
theorem State.spillWords_of_reaches (k : Nat) : ∀ {s : State} {pa : Nat → Nat},
    (∀ j, j < k → s.reaches .write (s.sp.ss - BitVec.ofNat 32 (4 * (j + 1))) 4 (pa j)) →
    (∀ i j, i < k → j < k → i ≠ j → pa i + 4 ≤ pa j ∨ pa j + 4 ≤ pa i) →
    ∃ gm m, (∀ st, State.spillWords k { s with sp := { s.sp with st := st } } = .ok { s with
        sp := { s.sp with st := st, ss := s.sp.ss - BitVec.ofNat 32 (4 * k) }
        mem := { s.mem with gm := gm }
        marks := m }) ∧
      (∀ j, j < k → ∀ b, b < 4 → gm.read (pa j + b) =
        s.sc.read (s.scIndex (s.sp.ss - BitVec.ofNat 32 (4 * (j + 1)) + BitVec.ofNat 32 b))) ∧
      (∀ a, (∀ j, j < k → a < pa j ∨ pa j + 4 ≤ a) → gm.read a = s.mem.gm.read a) := by
  induction k with
  | zero =>
    intro s pa _ _
    exact ⟨s.mem.gm, s.marks, fun st => by simp [State.spillWords], by simp, fun _ _ => rfl⟩
  | succ k ih =>
    intro s pa goes apart
    have down (j : Nat) : s.sp.ss - 4 - BitVec.ofNat 32 (4 * j) = s.sp.ss - BitVec.ofNat 32 (4 * (j + 1)) := by
      rw [Nat.mul_add, BitVec.ofNat_add, BitVec.sub_sub, BitVec.add_comm]
      rfl
    obtain ⟨gm₁, m₁, word, bytes₁, others₁⟩ := State.spillWord_of_reaches (goes 0 (Nat.succ_pos k))
    obtain ⟨gm, m, words, bytes, others⟩ := ih (pa := fun j => pa (j + 1))
      (s := { s with sp := { s.sp with ss := s.sp.ss - 4 }, mem := { s.mem with gm := gm₁ }, marks := m₁ })
      (fun j hj => down (j + 1) ▸ goes (j + 1) (by omega))
      (fun i j hi hj ne => apart (i + 1) (j + 1) (by omega) (by omega) (by omega))
    refine ⟨gm, m, fun st => ?_, fun j hj b hb => ?_, fun a outside => ?_⟩
    · rw [State.spillWords, word st]
      exact (words st).trans (by rw [down])
    · cases j with
      | zero =>
        rw [others _ fun j hj => ?_]
        · exact bytes₁ b hb
        · have := apart 0 (j + 1) (by omega) (by omega) (by omega)
          omega
      | succ j =>
        have byte := bytes j (by omega) b hb
        rw [down] at byte
        exact byte
    · rw [others a fun j hj => outside (j + 1) (by omega)]
      exact others₁ a (outside 0 (by omega))

/-- Settles O37: each of the three instructions spills the same words, by `spillWords_of_reaches`. -/
theorem spillMovesBytes : Obligations.SpillMovesBytes := by
  unfold Obligations.SpillMovesBytes
  intro g imm rs s n e pa on ready _ _ whole goes apart
  obtain ⟨enabled, free⟩ := on
  obtain ⟨gm, m, words, bytes, others⟩ := State.spillWords_of_reaches (n / 4) goes apart
  rw [Nat.mul_div_cancel' (Nat.dvd_of_mod_eq_zero whole)] at words
  refine ⟨gm, m, fun resident size => ?sspill, fun resident size => ?sspillR, fun small size => ?sres, bytes, others⟩
  case sspill =>
    rw [← toNat_stackBytes] at size
    subst size
    refine (State.guarded_of_true enabled _).trans ((State.spillTail_of_resident ready whole resident).trans ?_)
    exact congrArg transferred (words s.sp.st)
  case sspillR =>
    subst size
    refine (execSspillR_of_ready enabled (free rs (by simp))).trans
      ((State.spillTail_of_resident ready whole resident).trans ?_)
    exact congrArg transferred (words s.sp.st)
  case sres =>
    rw [← toNat_stackBytes] at small size
    rw [← stackBytes_eq]
    subst size
    refine (State.guarded_of_true enabled _).trans ((State.reserve_of_small ready small).trans ?_)
    exact congrArg transferred (words (s.sp.st - stackBytes imm))

/-! ### Fills -/

/-- The index in the stack cache of an address `i` bytes up, where the size of the cache divides the address space. -/
theorem State.scIndex_add {s : State} {e : Nat} (size : s.cfg.scSize = 2 ^ e) (he : e ≤ 32) (a : Word) (i : Nat) :
    s.scIndex (a + BitVec.ofNat 32 i) = (a.toNat + i) % s.cfg.scSize := by
  have divides : s.cfg.scSize ∣ 2 ^ 32 := size ▸ Nat.pow_dvd_pow 2 he
  rw [State.scIndex, BitVec.toNat_add, BitVec.toNat_ofNat, Nat.mod_mod_of_dvd _ divides, Nat.add_mod,
    Nat.mod_mod_of_dvd _ divides, ← Nat.add_mod]

theorem State.scIndex_add_injective {s : State} {e : Nat} (size : s.cfg.scSize = 2 ^ e) (he : e ≤ 32) {a : Word}
    {i j : Nat} (hi : i < s.cfg.scSize) (hj : j < s.cfg.scSize)
    (same : s.scIndex (a + BitVec.ofNat 32 i) = s.scIndex (a + BitVec.ofNat 32 j)) : i = j := by
  rw [State.scIndex_add size he, State.scIndex_add size he] at same
  exact eq_of_add_mod_eq same hi hj

/-- One filled word. -/
theorem State.fillWord_of_reaches {s : State} {pa e : Nat} (size : s.cfg.scSize = 2 ^ e) (two : 2 ≤ e) (he : e ≤ 32)
    (goes : s.reaches .read s.sp.ss 4 pa) (clean : ∀ a, s.marks.dcDirty.read a = 0) :
    ∃ c, s.fillWord = .ok { s with sp := { s.sp with ss := s.sp.ss + 4 }, sc := c } ∧
      (∀ b, b < 4 → c.read (s.scIndex (s.sp.ss + BitVec.ofNat 32 b)) = s.mem.gm.read (pa + b)) ∧
      (∀ x, (∀ b, b < 4 → x ≠ s.scIndex (s.sp.ss + BitVec.ofNat 32 b)) → c.read x = s.sc.read x) := by
  have four : 4 ≤ s.cfg.scSize := size ▸ Nat.pow_le_pow_right (by decide : 2 > 0) two
  have shown : s.marks.hides false (span pa 4) = false := Memory.anySet_span_false fun k _ => clean (pa + k)
  obtain ⟨bytes, others⟩ := Memory.stored_writeWord (m := s.sc) (v := s.mem.gm.readWord (span pa 4))
    (as := s.scSpan s.sp.ss 4) (n := 4) rfl
    fun i j hi hj same => State.scIndex_add_injective size he (by omega) (by omega) same
  refine ⟨_, ?_, fun b hb => ?_, others⟩
  · simp only [State.fillWord, State.place_of_reaches goes, shown]
    rfl
  · rw [bytes b hb, span, readWord_range_four, extractLsb'_bigWord _ hb]

/-- Several filled words, no more than the stack cache holds: each has the bytes of its physical address, and no other
byte of the stack cache changes. -/
theorem State.fillWords_of_reaches {e : Nat} (k : Nat) : ∀ {s : State} {pa : Nat → Nat}, s.cfg.scSize = 2 ^ e → 2 ≤ e →
    e ≤ 32 → 4 * k ≤ s.cfg.scSize → (∀ j, j < k → s.reaches .read (s.sp.ss + BitVec.ofNat 32 (4 * j)) 4 (pa j)) →
    (∀ a, s.marks.dcDirty.read a = 0) →
    ∃ c, State.fillWords k s = .ok { s with sp := { s.sp with ss := s.sp.ss + BitVec.ofNat 32 (4 * k) }, sc := c } ∧
      (∀ j, j < k → ∀ b, b < 4 → c.read (s.scIndex (s.sp.ss + BitVec.ofNat 32 (4 * j) + BitVec.ofNat 32 b)) =
        s.mem.gm.read (pa j + b)) ∧
      (∀ x, (∀ i, i < 4 * k → x ≠ s.scIndex (s.sp.ss + BitVec.ofNat 32 i)) → c.read x = s.sc.read x) := by
  induction k with
  | zero =>
    intro s pa _ _ _ _ _ _
    exact ⟨s.sc, by simp [State.fillWords], by simp, fun _ _ => rfl⟩
  | succ k ih =>
    intro s pa size two he small goes clean
    have up (i : Nat) : s.sp.ss + 4 + BitVec.ofNat 32 i = s.sp.ss + BitVec.ofNat 32 (i + 4) := by
      rw [BitVec.ofNat_add, BitVec.add_assoc, BitVec.add_comm 4]
      rfl
    have here : s.sp.ss + BitVec.ofNat 32 (4 * 0) = s.sp.ss := BitVec.add_zero _
    obtain ⟨c₁, word, bytes₁, others₁⟩ :=
      State.fillWord_of_reaches size two he (here ▸ goes 0 (Nat.succ_pos k)) clean
    obtain ⟨c, words, bytes, others⟩ := ih (pa := fun j => pa (j + 1))
      (s := { s with sp := { s.sp with ss := s.sp.ss + 4 }, sc := c₁ }) size two he
      (Nat.le_trans (by omega) small) (fun j hj => up (4 * j) ▸ goes (j + 1) (by omega)) clean
    refine ⟨c, ?_, fun j hj b hb => ?_, fun x outside => ?_⟩
    · rw [State.fillWords, word]
      exact words.trans (by rw [up]; rfl)
    · cases j with
      | zero =>
        rw [here, others _ fun i hi same => ?_]
        · exact bytes₁ b hb
        · have := State.scIndex_add_injective size he (by omega) (by omega) (same.trans (congrArg s.scIndex (up i)))
          omega
      | succ j =>
        have byte := bytes j (by omega) b hb
        rw [up] at byte
        exact byte
    · rw [others x fun i hi => up i ▸ outside (i + 4) (by omega)]
      exact others₁ x fun b hb => outside b (by omega)

/-- Settles O38: both forms fill the same words, by `fillWords_of_reaches`. -/
theorem ensureFillsMissingBytes : Obligations.EnsureFillsMissingBytes := by
  unfold Obligations.EnsureFillsMissingBytes
  intro g imm rs s n k e pa on ready size two he whole small missing goes clean
  obtain ⟨enabled, free⟩ := on
  have words : 4 * (k / 4) = k := by
    obtain ⟨top, bottom, -⟩ := State.stackReady_iff.mp ready
    have resident : s.occupancy % 4 = 0 := by
      rw [State.occupancy, BitVec.toNat_sub]
      omega
    omega
  obtain ⟨c, filled, bytes, others⟩ := State.fillWords_of_reaches (k / 4) size two he (by omega) goes clean
  rw [words] at filled others
  subst missing
  refine ⟨c, fun immediate => ?sens, fun register => ?sensR, bytes, others⟩
  case sens =>
    rw [← toNat_stackBytes] at immediate
    subst immediate
    refine (State.guarded_of_true enabled _).trans ((State.ensure_of_small ready whole small).trans ?_)
    exact congrArg transferred filled
  case sensR =>
    subst register
    refine (execSensR_of_ready enabled (free rs (by simp))).trans ((State.ensure_of_small ready whole small).trans ?_)
    exact congrArg transferred filled

end Sys2Proof.Machine
end

section
/-! PROOFS. Entering a code block: its size word, its words, its target, and the marks of stored code after it
(49_control_flow R353, R354; 20_memory R83 to R85). -/
namespace Sys2Proof.Machine

/-! ### Where code stands -/

/-- Nothing existing is mapped at the physical address of a word of code (20_memory R77). -/
abbrev State.codeUnmapped (s : State) (a : Word) : Prop :=
  ∃ w, s.translate .execute a = some w ∧ (0x80000000 ≤ w.toNat ∨ s.cfg.memSize < w.toNat + 4)

section
variable {s : State} {a : Word}

theorem State.codePlaces_of_reaches {pa : Nat} (h : s.reaches .execute a 4 pa) : s.codePlaces [a] = .places [pa] :=
  State.codePlaces_of (f := fun _ => a) (pa := fun _ => pa) [0] fun _ _ => h

theorem State.codePlaces_of_denied (h : s.translate .execute a = none) : s.codePlaces [a] = .fault := by
  simp [State.codePlaces, h]

theorem State.codePlaces_of_unmapped (h : s.codeUnmapped a) : s.codePlaces [a] = .refuse .unmappedCode := by
  obtain ⟨w, translated, outside⟩ := h
  simp [State.codePlaces, translated, outside]

theorem State.externalWord_of_denied (fill : Bool) (h : s.translate .execute a = none) :
    s.externalWord fill a = .fault := by
  rw [State.externalWord, State.codePlaces_of_denied h]

theorem State.externalWord_of_unmapped (fill : Bool) (h : s.codeUnmapped a) :
    s.externalWord fill a = .refuse .unmappedCode := by
  rw [State.externalWord, State.codePlaces_of_unmapped h]

/-- A word of external memory that is there is refused if a mark hides one of its bytes, and read otherwise. -/
theorem State.externalWord_of_reaches (fill : Bool) {pa : Nat} (h : s.reaches .execute a 4 pa) :
    ((∃ k, k < 4 ∧ staleMark fill (s.marks.icStale.read (pa + k)) = true) →
        s.externalWord fill a = .refuse .staleCode) ∧
      ((∀ k, k < 4 → staleMark fill (s.marks.icStale.read (pa + k)) = false) →
        s.externalWord fill a = .word (bigWord fun k => s.mem.gm.read (pa + k))) := by
  have word : s.mem.gm.readWord (span pa 4) = bigWord fun k => s.mem.gm.read (pa + k) := readWord_range_four _ _
  simp only [State.externalWord, State.codePlaces_of_reaches h, List.flatMap_cons, List.flatMap_nil,
    List.append_nil, word]
  refine ⟨fun ⟨k, hk, stale⟩ => if_pos ?_, fun fresh => if_neg ?_⟩
  · exact List.any_eq_true.mpr ⟨pa + k, (mem_span _ _ _).mpr (by omega), stale⟩
  · rw [List.any_eq_true]
    rintro ⟨c, inside, stale⟩
    obtain ⟨low, high⟩ := (mem_span _ _ _).mp inside
    have fresh := fresh (c - pa) (by omega)
    rw [Nat.add_sub_cancel' low] at fresh
    exact absurd stale (by rw [fresh]; decide)

end

theorem staleMark_fill (mark : Byte) : staleMark true mark = true ↔ mark ≠ 0 ∧ mark ≠ 2 := by
  simp [staleMark]

/-! ### A block without a size word -/

section
variable {s : State} {b t : Word}

theorem State.enterBlock_of_misaligned (h : t.toNat % 4 ≠ 0) : s.enterBlock b t = .refuse .misalignedTarget := by
  rw [State.enterBlock, if_pos h]

variable (whole : t.toNat % 4 = 0) (unsized : b.toNat < 0x20000 ∨ s.cfg.methodCache = false)
include whole unsized

theorem State.enterBlock_unsized : s.enterBlock b t =
    if s.cfg.methodCache && decide (externalCode ≤ t.toNat) then .refuse .outsideBlock
    else if !s.codeMapped t then .refuse .unmappedCode
    else .entered { s with base := b, blockSize := none, marks := s.marks.afterTransfer s.cfg.methodCache } := by
  rw [State.enterBlock, if_neg (by simpa using whole), if_neg]
  obtain low | plain := unsized
  · simp [low]
  · simp [plain]

theorem State.enterBlock_of_codeMapped (reachable : s.cfg.methodCache = true → t.toNat < 0x20000)
    (mapped : s.codeMapped t = true) : s.enterBlock b t =
    .entered { s with base := b, blockSize := none, marks := s.marks.afterTransfer s.cfg.methodCache } := by
  rw [State.enterBlock_unsized whole unsized, if_neg (by simpa using reachable), mapped]
  rfl

theorem State.enterBlock_of_not_codeMapped (reachable : s.cfg.methodCache = true → t.toNat < 0x20000)
    (unmapped : s.codeMapped t = false) : s.enterBlock b t = .refuse .unmappedCode := by
  rw [State.enterBlock_unsized whole unsized, if_neg (by simpa using reachable), unmapped]
  rfl

theorem State.enterBlock_of_far (cached : s.cfg.methodCache = true) (far : 0x20000 ≤ t.toNat) :
    s.enterBlock b t = .refuse .outsideBlock := by
  rw [State.enterBlock_unsized whole unsized, if_pos (by simp [cached, far])]

end

section
variable {s : State} {a : Word}

theorem State.codeMapped_of_rom (low : a.toNat < 0x10000) : s.codeMapped a = true := if_pos low

theorem State.codeMapped_ispm (low : 0x10000 ≤ a.toNat) (high : a.toNat < 0x20000) :
    s.codeMapped a = decide (a.toNat - 0x10000 + 4 ≤ s.cfg.ispmSize) := by
  rw [State.codeMapped, if_neg (by omega), if_pos high]

/-- A denied address counts as mapped: the fetch there raises `IllegalMemoryAccess` (20_memory R102). -/
theorem State.codeMapped_external (high : 0x20000 ≤ a.toNat)
    (there : s.translate .execute a = none ∨ ∃ pa, s.reaches .execute a 4 pa) : s.codeMapped a = true := by
  rw [State.codeMapped, if_neg (by omega), if_neg (Nat.not_lt.mpr high)]
  obtain denied | ⟨pa, reached⟩ := there
  · rw [State.codePlaces_of_denied denied]
  · rw [State.codePlaces_of_reaches reached]

theorem State.codeMapped_of_codeUnmapped (high : 0x20000 ≤ a.toNat) (h : s.codeUnmapped a) :
    s.codeMapped a = false := by
  rw [State.codeMapped, if_neg (by omega), if_neg (Nat.not_lt.mpr high), State.codePlaces_of_unmapped h]

end

/-- With a traditional cache everything invalidated is read afresh. -/
theorem Marks.read_afterTransfer {m : Marks} (canonical : m.icStale.wf) (a : Nat) :
    (m.afterTransfer false).icStale.read a = if m.icStale.read a = 2 then 0 else m.icStale.read a := by
  show Memory.read (m.icStale.filter _) a = _
  rw [Memory.read_filter canonical]
  by_cases invalidated : m.icStale.read a = 2 <;> simp [invalidated]

/-! ### A block with a size word -/

section
variable {s : State} {b t : Word}

theorem State.blockSizeAt_of_externalWord (whole : b.toNat % 4 = 0) {r : CodeRead} (other : ∀ n, r ≠ .word n)
    (h : s.externalWord true (b - 4) = r) : s.blockSizeAt b = r := by
  rw [State.blockSizeAt, if_neg (by simpa using whole), h]
  cases r with
  | word n => exact absurd rfl (other n)
  | fault => rfl
  | refuse why => rfl

variable {n : Word} (whole : b.toNat % 4 = 0) (word : s.externalWord true (b - 4) = .word n)
include whole word

theorem State.blockSizeAt_of_bad (bad : n.toNat = 0 ∨ n.toNat % 4 ≠ 0 ∨ s.cfg.icacheSize < n.toNat) :
    s.blockSizeAt b = .refuse .badSizeWord := by
  rw [State.blockSizeAt, if_neg (by simpa using whole), word]
  exact if_pos (by simpa [or_assoc] using bad)

theorem State.blockSizeAt_of_good (positive : n.toNat ≠ 0) (words : n.toNat % 4 = 0)
    (small : n.toNat ≤ s.cfg.icacheSize) : s.blockSizeAt b = .word n := by
  rw [State.blockSizeAt, if_neg (by simpa using whole), word]
  exact if_neg (by simp [positive, words, small])

end

section
variable {s : State} {b t : Word} (whole : t.toNat % 4 = 0) (cached : s.cfg.methodCache = true)
  (external : 0x20000 ≤ b.toNat)
include whole cached external

theorem State.enterBlock_of_sizeFault (h : s.blockSizeAt b = .fault) : s.enterBlock b t = .fault := by
  rw [State.enterBlock, if_neg (by simpa using whole), if_pos (by simp [cached, external]), h]

theorem State.enterBlock_of_sizeRefused {why : Refusal} (h : s.blockSizeAt b = .refuse why) :
    s.enterBlock b t = .refuse why := by
  rw [State.enterBlock, if_neg (by simpa using whole), if_pos (by simp [cached, external]), h]

variable {n : Word} (size : s.blockSizeAt b = .word n)
include size

theorem State.enterBlock_of_wordFault (h : s.codePlaces (blockWords b n) = .fault) : s.enterBlock b t = .fault := by
  rw [State.enterBlock, if_neg (by simpa using whole), if_pos (by simp [cached, external]), size]
  simp only [h]

theorem State.enterBlock_of_wordRefused {why : Refusal} (h : s.codePlaces (blockWords b n) = .refuse why) :
    s.enterBlock b t = .refuse why := by
  rw [State.enterBlock, if_neg (by simpa using whole), if_pos (by simp [cached, external]), size]
  simp only [h]

theorem State.enterBlock_of_places {pas : List Nat} (h : s.codePlaces (blockWords b n) = .places pas) :
    s.enterBlock b t = if (t - b).toNat < n.toNat then
      .entered { s with base := b, blockSize := some n, marks := s.marks.afterFill pas }
    else .refuse .outsideBlock := by
  rw [State.enterBlock, if_neg (by simpa using whole), if_pos (by simp [cached, external]), size]
  simp only [h]

end

/-- After a fill, the invalidated bytes among those it reads are visible, and no other. -/
theorem Marks.read_afterFill {m : Marks} (canonical : m.icStale.wf) (k : Nat) (pa : Nat → Nat) (a : Nat) :
    (m.icStale.read a = 2 ∧ (∃ i, i < k ∧ pa i ≤ a ∧ a < pa i + 4) →
      (m.afterFill ((List.range k).map pa)).icStale.read a = 0) ∧
    (¬ (m.icStale.read a = 2 ∧ ∃ i, i < k ∧ pa i ≤ a ∧ a < pa i + 4) →
      (m.afterFill ((List.range k).map pa)).icStale.read a = m.icStale.read a) := by
  have filtered := Memory.read_filter canonical
    (fun c => !(c.2 == 2 && ((List.range k).map pa).any fun pa => decide (pa ≤ c.1) && decide (c.1 < pa + 4))) a
  refine ⟨fun seen => filtered.trans (if_neg ?_), fun unseen => filtered.trans (if_pos ?_)⟩
  · simpa using seen
  · simpa [Decidable.or_iff_not_imp_left] using unseen

theorem codePlaces_blockWords {s : State} {b n : Word} {pa : Nat → Nat}
    (h : ∀ i, i < n.toNat / 4 → s.reaches .execute (b + BitVec.ofNat 32 (4 * i)) 4 (pa i)) :
    s.codePlaces (blockWords b n) = .places ((List.range (n.toNat / 4)).map pa) :=
  State.codePlaces_of (List.range _) fun i hi => h i (List.mem_range.mp hi)

/-- The first word of a block that is not there decides. -/
theorem codePlaces_blockWords_stops {s : State} {b n : Word} {i : Nat} (hi : i < n.toNat / 4)
    (before : ∀ j, j < i → ∃ pa, s.reaches .execute (b + BitVec.ofNat 32 (4 * j)) 4 pa) :
    (s.translate .execute (b + BitVec.ofNat 32 (4 * i)) = none → s.codePlaces (blockWords b n) = .fault) ∧
    ∀ w, s.translate .execute (b + BitVec.ofNat 32 (4 * i)) = some w →
      0x80000000 ≤ w.toNat ∨ s.cfg.memSize < w.toNat + 4 → s.codePlaces (blockWords b n) = .refuse .unmappedCode := by
  refine State.codePlaces_stops (f := fun i => b + BitVec.ofNat 32 (4 * i)) i (List.range (n.toNat / 4))
    (List.mem_range.mpr hi) List.pairwise_lt_range fun j _ hj => ?_
  obtain ⟨pa, w, translated, rfl, low, inside⟩ := before j hj
  exact ⟨w, translated, low, inside⟩

/-- Settles O39: the three ways a block is entered, and the size word and the words of one that has a size. -/
theorem enterBlock : Obligations.EnterBlock := by
  unfold Obligations.EnterBlock
  intro s b t
  refine ⟨State.enterBlock_of_misaligned, fun whole unsized => ?unsized, fun whole cached external => ?sized⟩
  case unsized =>
    refine ⟨fun there => ?enter, fun nowhere => ?nowhere, State.enterBlock_of_far whole unsized⟩
    case enter =>
      have reachable : s.cfg.methodCache = true → t.toNat < 0x20000 := fun cached => by
        obtain low | ⟨-, low, -⟩ | ⟨plain, -⟩ := there
        · omega
        · exact low
        · exact absurd (plain.symm.trans cached) Bool.false_ne_true
      have mapped : s.codeMapped t = true := by
        obtain low | ⟨low, high, inside⟩ | ⟨-, high, there⟩ := there
        · exact State.codeMapped_of_rom low
        · rw [State.codeMapped_ispm low high, decide_eq_true inside]
        · exact State.codeMapped_external high there
      refine ⟨_, State.enterBlock_of_codeMapped whole unsized reachable mapped, fun cached => ?_,
        fun plain canonical => ?_⟩
      · rw [cached]
        rfl
      · rw [plain]
        exact Marks.read_afterTransfer canonical
    case nowhere =>
      obtain ⟨low, high, small⟩ | ⟨plain, high, unmapped⟩ := nowhere
      · refine State.enterBlock_of_not_codeMapped whole unsized (fun _ => high) ?_
        rw [State.codeMapped_ispm low high, decide_eq_false (by omega)]
      · refine State.enterBlock_of_not_codeMapped whole unsized (fun cached => ?_)
          (State.codeMapped_of_codeUnmapped high unmapped)
        exact absurd (plain.symm.trans cached) Bool.false_ne_true
  case sized =>
    have refused {why : Refusal} := State.enterBlock_of_sizeRefused (why := why) whole cached external
    refine ⟨fun crooked => refused (if_pos crooked), fun straight => ⟨fun denied => ?denied, fun w translated outside =>
      ?unmapped, fun pb there => ⟨fun ⟨k, hk, marked⟩ => ?stale, fun n fresh named => ?read⟩⟩⟩
    case denied =>
      exact State.enterBlock_of_sizeFault whole cached external
        (State.blockSizeAt_of_externalWord straight nofun (State.externalWord_of_denied true denied))
    case unmapped =>
      exact refused (State.blockSizeAt_of_externalWord straight nofun
        (State.externalWord_of_unmapped true ⟨w, translated, outside⟩))
    case stale =>
      exact refused (State.blockSizeAt_of_externalWord straight nofun
        ((State.externalWord_of_reaches true there).1 ⟨k, hk, (staleMark_fill _).mpr marked⟩))
    case read =>
      have word : s.externalWord true (b - 4) = .word n := by
        rw [named]
        refine (State.externalWord_of_reaches true there).2 fun k hk => Bool.eq_false_iff.mpr fun stale => ?_
        obtain ⟨set, invalid⟩ := (staleMark_fill _).mp stale
        exact (fresh k hk).elim set invalid
      refine ⟨fun bad => refused (State.blockSizeAt_of_bad straight word bad), fun positive words small => ?_⟩
      have size := State.blockSizeAt_of_good straight word positive words small
      refine ⟨fun i hi before => ?missing, fun pa reached => ?whole⟩
      case missing =>
        obtain ⟨fault, refuse⟩ := codePlaces_blockWords_stops hi before
        exact ⟨fun denied => State.enterBlock_of_wordFault whole cached external size (fault denied),
          fun w translated outside =>
            State.enterBlock_of_wordRefused whole cached external size (refuse w translated outside)⟩
      case whole =>
        have places := State.enterBlock_of_places whole cached external size (codePlaces_blockWords reached)
        refine ⟨fun beyond => places.trans (if_neg (Nat.not_lt.mpr beyond)), fun inside => ?_⟩
        exact ⟨_, places.trans (if_pos inside), fun canonical => Marks.read_afterFill canonical _ pa⟩

end Sys2Proof.Machine
end

section
/-! PROOFS. The control-flow instructions: non-delayed transfers and branches, delayed ones, and their refusal in a
delay slot (49_control_flow R352 to R375). -/
namespace Sys2Proof.Machine

/-! ### Targets -/

theorem absoluteTarget_eq (imm : BitVec 22) : absoluteTarget imm = BitVec.ofNat 32 (4 * imm.toNat) := by
  have bound := imm.isLt
  apply BitVec.eq_of_toNat_eq
  simp only [absoluteTarget, BitVec.toNat_shiftLeft, BitVec.toNat_setWidth, BitVec.toNat_ofNat, Nat.shiftLeft_eq]
  omega

theorem absoluteTarget_aligned (imm : BitVec 22) : (absoluteTarget imm).toNat % 4 = 0 := by
  rw [absoluteTarget_eq, BitVec.toNat_ofNat]
  omega

theorem relativeTarget_eq (pc : Word) (imm : BitVec 22) :
    relativeTarget pc imm = pc + BitVec.ofInt 32 (4 * imm.toInt) := by
  rw [relativeTarget, BitVec.shiftLeft_eq_mul_twoPow, BitVec.signExtend, BitVec.ofInt_mul, BitVec.mul_comm]
  rfl

/-! ### What a transfer answers where none is pending -/

theorem alignedTarget_of_aligned {x : Word} (h : x.toNat % 4 = 0) (k : Result) : alignedTarget x k = k :=
  need_of_true (by simpa using h) _ _

theorem alignedTarget_of_misaligned {x : Word} (h : x.toNat % 4 ≠ 0) (k : Result) :
    alignedTarget x k = .refused .misalignedTarget :=
  need_of_false (by simpa using h) _ _

section
variable {s : State} (settled : s.pending = none)
include settled

/-- A non-delayed transfer answers as the entry of its block does. -/
theorem State.transferNow_of_settled (s' : State) (b x : Word) :
    (∀ u, s'.enterBlock b x = .entered u → s'.inBlockOf u b ∧ s.transferNow s' b x = .next { u with nextPc := x }) ∧
      (∀ why, s'.enterBlock b x = .refuse why → s.transferNow s' b x = .refused why) ∧
      (s'.enterBlock b x = .fault → s.transferNow s' b x = s.illegalAccess) := by
  rw [State.transferNow, need_of_true (by rw [settled]; rfl)]
  refine ⟨fun u entered => ?_, fun why refused => by rw [refused], fun denied => by rw [denied]⟩
  obtain ⟨-, z, m, block, -⟩ := State.enterBlock_entered entered
  exact ⟨⟨z, m, block⟩, by rw [entered]⟩

theorem State.transferLater_of_settled (n : Nat) (k : TransferKind) (b x : Word) : s.transferLater n k b x =
    alignedTarget x (.next { s with pending := some { remaining := n, target := x, base := b, kind := k } }) :=
  need_of_true (by rw [settled]; rfl) _ _

theorem State.branchNow_of_settled (x : Word) :
    s.branchNow x = alignedTarget x (s.inBlock x (.next { s with nextPc := x })) :=
  need_of_true (by rw [settled]; rfl) _ _

end

theorem State.inBlock_of_none {s : State} {x : Word} (h : s.leavesBlock x = none) (k : Result) : s.inBlock x k = k := by
  rw [State.inBlock, h]

theorem State.inBlock_of_some {s : State} {x : Word} {why : Refusal} (h : s.leavesBlock x = some why) (k : Result) :
    s.inBlock x k = .refused why := by
  rw [State.inBlock, h]

/-! ### Calls and returns -/

/-- Settles O40: each is `transferNow`, with what it writes besides. -/
theorem nonDelayedCallsAndReturns : Obligations.NonDelayedCallsAndReturns := by
  unfold Obligations.NonDelayedCallsAndReturns
  rintro g imm rs s _ _ x ⟨on, free⟩ settled rfl rfl
  have enabled := State.guarded_of_true on
  refine ⟨fun i named => ?call, fun target => ?ret, fun target => ?xret⟩
  case call =>
    have runs : exec i s = s.transferNow (s.link s.nextPc) x x := by
      obtain ⟨rfl, rfl⟩ | ⟨rfl, rfl⟩ := named
      · rw [← absoluteTarget_eq]
        exact enabled _
      · exact (enabled _).trans (State.use_of_ready (free rs (by simp)) _)
    rw [runs]
    exact State.transferNow_of_settled settled _ x x
  case ret =>
    rw [show exec (.retnd g) s = s.transferNow s s.sp.srb x from target ▸ enabled _]
    exact State.transferNow_of_settled settled s s.sp.srb x
  case xret =>
    rw [show exec (.xretnd g) s = s.transferNow s.restoreStatus s.sp.sxb x from target ▸ enabled _]
    exact State.transferNow_of_settled settled _ s.sp.sxb x

/-! ### Branches, and the bounds of a block -/

section
variable {s : State} {x : Word}

theorem State.leavesBlock_of_traditional (h : s.cfg.methodCache = false) : s.leavesBlock x = none := by
  simp [State.leavesBlock, h]

variable (cached : s.cfg.methodCache = true)
include cached

theorem State.leavesBlock_of_bounds {n : Word} (size : s.blockSize = some n) (room : s.base.toNat + n.toNat ≤ 2 ^ 32) :
    s.leavesBlock x =
      if s.base.toNat ≤ x.toNat ∧ x.toNat < s.base.toNat + n.toNat then none else some .outsideBlock := by
  have bound := x.isLt
  have inside : (x - s.base).toNat < n.toNat ↔ s.base.toNat ≤ x.toNat ∧ x.toNat < s.base.toNat + n.toNat := by
    rw [BitVec.toNat_sub]
    omega
  simp only [State.leavesBlock, cached, size, Bool.not_true, Bool.false_eq_true, if_false, inside]

theorem State.leavesBlock_of_unbounded (unbounded : s.blockSize = none) (low : s.base.toNat < 0x20000) :
    s.leavesBlock x = if x.toNat < 0x20000 then none else some .outsideBlock := by
  simp only [State.leavesBlock, cached, unbounded, Bool.not_true, Bool.false_eq_true, if_false,
    decide_eq_false (Nat.not_le.mpr low), Bool.or_false, decide_eq_true_eq]

end

/-- Settles O41: the bounds by `leavesBlock`, and the branches by `transferNow` and `branchNow`. -/
theorem nonDelayedBranches : Obligations.NonDelayedBranches := by
  unfold Obligations.NonDelayedBranches
  refine ⟨fun s x => ⟨State.leavesBlock_of_traditional, fun cached => ⟨fun n size room => ?bounds, fun unbounded low =>
    ?unbounded⟩⟩, fun g imm rs1 rs2 s x on settled => ⟨fun b i named => ?fill, fun i named => ?branch⟩⟩
  case bounds =>
    rw [State.leavesBlock_of_bounds cached size room]
    exact ⟨fun inside => if_pos inside, fun outside => if_neg (by omega)⟩
  case unbounded =>
    rw [State.leavesBlock_of_unbounded cached unbounded low]
    exact ⟨fun near => if_pos near, fun far => if_neg (by omega)⟩
  all_goals
    obtain ⟨on, free⟩ := on
    have enabled := State.guarded_of_true on
    have use1 := State.use_of_ready (free rs1 (by simp))
    have use2 := State.use_of_ready (free rs2 (by simp))
  case fill =>
    have runs : exec i s = alignedTarget b (s.transferNow s b x) := by
      obtain ⟨rfl, rfl, rfl⟩ | ⟨rfl, rfl, rfl⟩ := named
      · rw [← absoluteTarget_eq, alignedTarget_of_aligned (absoluteTarget_aligned imm)]
        exact enabled _
      · exact (enabled _).trans ((use1 _).trans (use2 _))
    rw [runs]
    refine ⟨fun crooked => alignedTarget_of_misaligned crooked _, fun straight => ?_⟩
    rw [alignedTarget_of_aligned straight]
    exact State.transferNow_of_settled settled s b x
  case branch =>
    have runs : exec i s = s.branchNow x := by
      obtain ⟨rfl, rfl⟩ | ⟨rfl, rfl⟩ := named
      · rw [← relativeTarget_eq]
        exact enabled _
      · exact (enabled _).trans (use1 _)
    rw [runs, State.branchNow_of_settled settled]
    refine ⟨fun crooked => alignedTarget_of_misaligned crooked _, fun straight why leaves => ?_,
      fun straight stays => ?_⟩
    · rw [alignedTarget_of_aligned straight, State.inBlock_of_some leaves]
    · rw [alignedTarget_of_aligned straight, State.inBlock_of_none stays]

/-- Settles O42: each delayed transfer is `transferLater`, after the checks of its base or of the block. -/
theorem delayedTransfersRecorded : Obligations.DelayedTransfersRecorded := by
  unfold Obligations.DelayedTransfersRecorded
  rintro g imm rs1 rs2 s x ⟨on, free⟩ settled
  have enabled := State.guarded_of_true on
  have use1 := State.use_of_ready (free rs1 (by simp))
  have use2 := State.use_of_ready (free rs2 (by simp))
  have later := State.transferLater_of_settled settled
  refine ⟨fun target => ?absolute, fun i b k named => ?based, fun i named => ?branch⟩
  case absolute =>
    rw [target, ← absoluteTarget_eq]
    have recorded k := (later 3 k (absoluteTarget imm) _).trans
      (alignedTarget_of_aligned (absoluteTarget_aligned imm) _)
    exact ⟨(enabled _).trans (recorded _), (enabled _).trans (recorded _)⟩
  case based =>
    have runs : exec i s =
        if k = .brcf then alignedTarget b (s.transferLater 3 k b x) else s.transferLater 3 k b x := by
      obtain ⟨rfl, rfl, rfl, rfl⟩ | ⟨rfl, rfl, rfl, rfl⟩ | ⟨rfl, rfl, rfl, rfl⟩ | ⟨rfl, rfl, rfl, rfl⟩ := named
      · exact (enabled _).trans (use1 _)
      · exact (enabled _).trans ((use1 _).trans (use2 _))
      · exact enabled _
      · exact enabled _
    rw [runs, later]
    refine ⟨fun straight base => ?_, fun crooked => ?_⟩
    · by_cases fill : k = .brcf
      · rw [if_pos fill, alignedTarget_of_aligned (base fill), alignedTarget_of_aligned straight]
      · rw [if_neg fill, alignedTarget_of_aligned straight]
    · by_cases fill : k = .brcf ∧ b.toNat % 4 ≠ 0
      · rw [if_pos fill.1, alignedTarget_of_misaligned fill.2]
      · have crooked := alignedTarget_of_misaligned (crooked.resolve_right fill)
        by_cases kind : k = .brcf
        · rw [if_pos kind, alignedTarget_of_aligned (by simpa [kind] using fill), crooked]
        · rw [if_neg kind, crooked]
  case branch =>
    have runs : exec i s = s.branchLater x := by
      obtain ⟨rfl, rfl⟩ | ⟨rfl, rfl⟩ := named
      · rw [← relativeTarget_eq]
        exact enabled _
      · exact (enabled _).trans (use1 _)
    rw [runs, State.branchLater, later]
    refine ⟨fun straight stays => ?_, fun crooked stays => ?_, fun why leaves => State.inBlock_of_some leaves _⟩
    · rw [State.inBlock_of_none stays, alignedTarget_of_aligned straight]
    · rw [State.inBlock_of_none stays, alignedTarget_of_misaligned crooked]

/-! ### In a delay slot -/

/-- The result is a refusal, for whatever reason. -/
def Refuses (r : Result) : Prop := ∃ why, r = .refused why

theorem need_refuses {ok : Bool} (why : Refusal) {k : Result} (h : ok = false ∨ Refuses k) :
    Refuses (need ok why k) := by
  cases ok with
  | false => exact ⟨why, rfl⟩
  | true => exact h.resolve_left (by decide)

theorem State.use_refuses {s : State} (r : GReg) {k : Word → Result} (h : ∀ v, Refuses (k v)) : Refuses (s.use r k) :=
  need_refuses _ (.inr (h _))

theorem alignedTarget_refuses (x : Word) {k : Result} (h : Refuses k) : Refuses (alignedTarget x k) :=
  need_refuses _ (.inr h)

section
variable {s : State} (slot : s.pending ≠ none)
include slot

theorem State.isNone_pending : s.pending.isNone = false := by
  rwa [Option.isNone_eq_false_iff, Option.isSome_iff_ne_none]

theorem State.transferNow_refuses (s' : State) (b x : Word) : Refuses (s.transferNow s' b x) :=
  need_refuses _ (.inl (State.isNone_pending slot))

theorem State.transferLater_refuses (n : Nat) (k : TransferKind) (b x : Word) : Refuses (s.transferLater n k b x) :=
  need_refuses _ (.inl (State.isNone_pending slot))

theorem State.branchNow_refuses (x : Word) : Refuses (s.branchNow x) :=
  need_refuses _ (.inl (State.isNone_pending slot))

theorem State.branchLater_refuses (x : Word) : Refuses (s.branchLater x) := by
  cases leaves : s.leavesBlock x with
  | some why => exact ⟨why, State.inBlock_of_some leaves _⟩
  | none =>
    rw [State.branchLater, State.inBlock_of_none leaves]
    exact State.transferLater_refuses slot _ _ _ _

end

/-- Settles O43: each control-flow instruction, under its guard, ends in a transfer that asks whether one is pending. -/
theorem controlFlowInDelaySlotRefused : Obligations.ControlFlowInDelaySlotRefused := by
  unfold Obligations.ControlFlowInDelaySlotRefused
  intro i s transfers on slot
  have guarded {k : Result} (h : Refuses k) : Refuses (s.guarded i.guard k) := by rwa [State.guarded_of_true on]
  show Refuses (exec i s)
  cases i with
  | callnd | brcfnd | retnd | xretnd =>
    exact guarded (State.transferNow_refuses slot _ _ _)
  | call | brcf | ret | xret => exact guarded (State.transferLater_refuses slot _ _ _ _)
  | brnd => exact guarded (State.branchNow_refuses slot _)
  | br => exact guarded (State.branchLater_refuses slot _)
  | callndR _ r =>
    exact guarded (State.use_refuses r fun _ => State.transferNow_refuses slot _ _ _)
  | callR _ r =>
    exact guarded (State.use_refuses r fun _ => State.transferLater_refuses slot _ _ _ _)
  | brndR _ r => exact guarded (State.use_refuses r fun _ => State.branchNow_refuses slot _)
  | brR _ r => exact guarded (State.use_refuses r fun _ => State.branchLater_refuses slot _)
  | brcfndR _ r q =>
    exact guarded (State.use_refuses r fun b => State.use_refuses q fun _ =>
      alignedTarget_refuses b (State.transferNow_refuses slot _ _ _))
  | brcfR _ r q =>
    exact guarded (State.use_refuses r fun b => State.use_refuses q fun _ =>
      alignedTarget_refuses b (State.transferLater_refuses slot _ _ _ _))
  | trap => exact guarded (need_refuses _ (.inl (State.isNone_pending slot)))
  | _ => exact absurd transfers (of_decide_eq_false rfl)

end Sys2Proof.Machine
end

section
/-! PROOFS. The end of a bundle, the joining of its two instructions, exception entry, and what returns undo
(30_encoding R127; 49_control_flow R352, R355, R380; 60_exceptions R420, R422). -/
namespace Sys2Proof.Machine

/-! ### The end of a bundle -/

section
variable {s t : State} {loaded multiplied : Bool} (unentered : t.excEntered = false)
include unentered

theorem State.endWindows_of_unentered (before : Nat) : t.endWindows loaded multiplied before = { t with
    loadShadow := if loaded then t.loadShadow else none
    mulShadow := if multiplied then t.mulShadow else before - 1 } := by
  simp only [State.endWindows, unentered, Bool.not_false, Bool.and_true]

theorem State.finish_of_unentered : s.finish loaded multiplied (.next t) = State.advance { t with
    loadShadow := if loaded then t.loadShadow else none
    mulShadow := if multiplied then t.mulShadow else s.mulShadow - 1 } s.pending := by
  rw [State.finish, State.endWindows_of_unentered unentered]

theorem State.advance_of_settled : t.advance none = .next { t with pc := t.nextPc, nextPc := t.nextPc + 4 } := by
  simp only [State.advance, State.boundary, unentered]
  rfl

theorem State.advance_of_remaining {p : Pending} (more : 1 < p.remaining) : t.advance (some p) = .next { t with
    pc := t.nextPc, nextPc := t.nextPc + 4, pending := some { p with remaining := p.remaining - 1 } } := by
  simp only [State.advance, State.boundary, unentered, if_neg (Nat.not_le.mpr more)]
  rfl

theorem State.advance_of_last {p : Pending} (last : p.remaining ≤ 1) {u : State} (entered : t.complete p = .entered u) :
    t.advance (some p) =
      .next { u with pc := p.target, nextPc := p.target + 4, pending := none, excEntered := false } := by
  simp only [State.advance, State.boundary, unentered, if_pos last, entered]
  rfl

end

/-- A last delay slot that ends has its transfer completed. -/
theorem State.advance_last_next {t u : State} {p : Pending} (unentered : t.excEntered = false) (last : p.remaining ≤ 1)
    (h : t.advance (some p) = .next u) : ∃ v, t.complete p = .entered v ∧
      u = { v with pc := p.target, nextPc := p.target + 4, pending := none, excEntered := false } := by
  cases completed : t.complete p with
  | entered v =>
    rw [State.advance_of_last unentered last completed] at h
    exact ⟨v, rfl, (Host.Outcome.next.inj h).symm⟩
  | fault => simp [State.advance, unentered, last, completed] at h
  | refuse why => simp [State.advance, unentered, last, completed] at h

/-- Settles O44: no delay slot, or one of several. -/
theorem bundleEndsInSequence : Obligations.BundleEndsInSequence := by
  unfold Obligations.BundleEndsInSequence
  refine fun s t loaded multiplied unentered => ⟨fun settled => ?settled, fun p pending more => ?slot⟩
  case settled =>
    rw [State.finish_of_unentered unentered, settled]
    exact State.advance_of_settled (by exact unentered)
  case slot =>
    rw [State.finish_of_unentered unentered, pending]
    exact State.advance_of_remaining (by exact unentered) more

/-- What a transfer other than a `br` writes when it happens, and the block it enters. -/
theorem State.complete_of_ne_br (t : State) {p : Pending} (h : p.kind ≠ .br) : t.complete p = ({ t with
    sp := if p.kind = .call then { t.sp with srb := t.base, sro := t.nextPc - t.base } else t.sp
    exc := if p.kind = .xret then { t.exc with status := t.exc.status >>> 2 } else t.exc } : State).enterBlock
      p.base p.target := by
  obtain ⟨remaining, target, base, kind⟩ := p
  cases kind with
  | br => exact absurd rfl h
  | call | brcf | ret | xret => rfl

theorem State.complete_of_br (t : State) {p : Pending} (h : p.kind = .br) : t.complete p = .entered t := by
  rw [State.complete, h]

/-- Settles O45: the last delay slot, by the kind of the transfer. -/
theorem delayedTransferHappens : Obligations.DelayedTransferHappens := by
  unfold Obligations.DelayedTransferHappens
  refine fun s t u p loaded multiplied pending last unentered => ⟨fun kind entered => ?fill, fun kind => ?branch⟩ <;>
    rw [State.finish_of_unentered unentered, pending]
  case fill => exact State.advance_of_last (by exact unentered) last ((State.complete_of_ne_br _ kind).trans entered)
  case branch =>
    refine (State.advance_of_last (by exact unentered) last (State.complete_of_br _ kind)).trans ?_
    rw [unentered]

/-! ### Two instructions of a bundle -/

theorem execPair_of_next {i j : Instr} {s t u : State} (first : exec i s = .next t) (second : exec j s = .next u)
    (unentered : t.excEntered = false) (compatible : s.twoWriters i j = false) :
    execPair i j s = .next (joinSecond (s.ps j.guard) j t u) := by
  rw [execPair, need_of_true (by rw [compatible]; rfl), first]
  simp only [unentered, second]
  rfl

/-- Settles O46: the second's destination, as it is after the second alone, is written into the first's result. -/
theorem bundleReadsBeforeItWrites : Obligations.BundleReadsBeforeItWrites := by
  unfold Obligations.BundleReadsBeforeItWrites
  intro i j s t u first second unentered compatible
  rw [execPair_of_next first second unentered compatible]
  refine ⟨fun rd enabled register => ?_, fun pd enabled register predicate => ?_, fun disabled => ?_⟩
  · rw [enabled, joinSecond, if_pos rfl, register]
  · rw [enabled, joinSecond, if_pos rfl, register, predicate]
  · rw [disabled]
    rfl

/-! ### Exception entry -/

theorem State.takeException_of_entered {s u : State} {n : Fin 32} {ret : Word} (entered : ({ s with
    sp := { s.sp with sxb := s.base, sxo := ret - s.base }
    exc := { s.exc with status := (s.exc.status <<< 2) ||| 2, source := BitVec.ofNat 32 n.val }
    loadShadow := none
    excEntered := true } : State).enterBlock s.exc.vec[n] s.exc.vec[n] = .entered u) :
    s.takeException n ret = .next { u with pc := s.exc.vec[n] } := by
  simp only [State.takeException, entered]

/-- Where the vector's block can be entered, exception entry happens. -/
theorem State.takeException_of_handlerReady {s : State} {n : Fin 32} (ready : s.handlerReady n) (ret : Word) :
    ∃ t, s.takeException n ret = .next t ∧ s.enteredHandler t n ret := by
  obtain ⟨u, entered⟩ := ready
  have saved := State.enterBlock_congr (sp := { s.sp with sxb := s.base, sxo := ret - s.base })
    (src := BitVec.ofNat 32 n.val) (p := s.exc.pend) (ls := none) (ee := true) (sl := s.sleeping) entered
  have happens := State.takeException_of_entered (ret := ret) saved
  obtain ⟨-, z, m, shape, -⟩ := State.takeException_next happens
  exact ⟨_, happens, z, m, shape⟩

/-- Settles O48: the checks of `trap`, and then exception entry. -/
theorem trapEntersHandler : Obligations.TrapEntersHandler := by
  unfold Obligations.TrapEntersHandler
  intro g imm s on settled
  have runs : exec (.trap g imm) s = need (decide (imm.toNat < 32)) .trapNumber
      (need (s.nextPc == s.pc + 4) .trapNotAlone (s.takeException (Fin.ofNat 32 imm.toNat) (s.pc + 4))) :=
    (State.guarded_of_true on _).trans (need_of_true (by rw [settled]; rfl) _ _)
  rw [runs]
  refine ⟨fun n number alone ready => ?enters, fun beyond => ?beyond, fun below beside => ?beside⟩
  case enters =>
    have named : Fin.ofNat 32 imm.toNat = n := Fin.ext (by rw [number]; exact Nat.mod_eq_of_lt n.isLt)
    rw [need_of_true (by rw [number]; exact decide_eq_true n.isLt),
      need_of_true (by rw [alone]; exact beq_self_eq_true _), named]
    exact State.takeException_of_handlerReady ready (s.pc + 4)
  case beyond => exact need_of_false (decide_eq_false (Nat.not_lt.mpr beyond)) _ _
  case beside =>
    rw [need_of_true (decide_eq_true below)]
    exact need_of_false (beq_eq_false_iff_ne.mpr beside) _ _

/-! ### Returns -/

theorem status_pushed_shifted_back (status : Word) : ((status <<< 2) ||| 2) >>> 2 = status &&& 0x3fffffff := by
  have pushed : (2 : Word) >>> 2 = 0#32 := by decide
  have mask : (0x3fffffff : Word).toNat = 2 ^ 30 - 1 := by decide
  apply BitVec.eq_of_toNat_eq
  rw [BitVec.ushiftRight_or_distrib, pushed, BitVec.or_zero, BitVec.toNat_and, mask, Nat.and_two_pow_sub_one_eq_mod,
    BitVec.toNat_ushiftRight, BitVec.toNat_shiftLeft, Nat.shiftLeft_eq, Nat.shiftRight_eq_div_pow]
  omega

theorem returnTarget_of_link {sp : Specials} {base ret : Word} (srb : sp.srb = base) (sro : sp.sro = ret - base) :
    sp.srb + sp.sro = ret := by
  rw [srb, sro, BitVec.add_comm, BitVec.sub_add_cancel]

/-- A non-delayed call that entered no handler wrote the return information. -/
theorem State.transferNow_link_next {s t : State} {ret x : Word} (h : s.transferNow (s.link ret) x x = .next t)
    (unentered : t.excEntered = false) : t.returnTarget = ret ∧ t.sp.srb = s.base := by
  obtain ⟨-, ⟨u, entered, rfl⟩ | ⟨-, raised⟩⟩ := State.transferNow_next h
  · obtain ⟨-, z, m, rfl, -⟩ := State.enterBlock_entered entered
    exact ⟨returnTarget_of_link rfl rfl, rfl⟩
  · exact absurd (State.raise_next raised).2 (not_takeException unentered)

/-- Settles O51: what exception entry and calls save is what returns read. -/
theorem returnsUndoEntries : Obligations.ReturnsUndoEntries := by
  unfold Obligations.ReturnsUndoEntries
  refine ⟨fun s t n ret taken => ?exception, fun g imm rs s t on unentered called => ?call,
    fun s t u p loaded multiplied pending kind last unentered ended => ?delayed⟩
  case exception =>
    obtain ⟨base, -, target⟩ := State.takeException_returns taken
    obtain ⟨-, z, m, rfl, -⟩ := State.takeException_next taken
    exact ⟨by simp, by simp [State.userMode], status_pushed_shifted_back _, target, base, rfl, rfl, rfl, rfl, rfl⟩
  case call =>
    obtain imm | register := called
    · exact State.transferNow_link_next ((State.guarded_of_true on _).symm.trans imm) unentered
    · exact State.transferNow_link_next (State.use_next ((State.guarded_of_true on _).symm.trans register)).2 unentered
  case delayed =>
    rw [State.finish_of_unentered unentered, pending] at ended
    obtain ⟨v, completed, rfl⟩ := State.advance_last_next (by exact unentered) last ended
    rw [State.complete, kind] at completed
    obtain ⟨-, z, m, rfl, -⟩ := State.enterBlock_entered completed
    exact ⟨returnTarget_of_link rfl rfl, rfl, rfl, rfl⟩

end Sys2Proof.Machine
end

section
/-! PROOFS. Steps: what is fetched, which of a step's alternatives is taken, faults and interrupts (30_encoding R120
to R130; 20_memory R64, R77, R102; 60_exceptions R402, R408, R413 to R420). -/
namespace Sys2Proof.Machine

/-! ### The alternatives of a step -/

theorem step_of_awake {s : State} (idle : s.dueInterrupt = none) (awake : s.sleeping = false) :
    step s = ticked s.runBundle := by
  simp [step, State.act, idle, awake]

theorem step_of_asleep {s : State} (idle : s.dueInterrupt = none) (asleep : s.sleeping = true) :
    step s = .next s.tick := by
  simp [step, State.act, idle, asleep, ticked]

theorem step_of_entered {s : State} (idle : s.dueInterrupt = none) (awake : s.sleeping = false)
    (entered : s.unentered = false) : step s = ticked s.runEntered := by
  rw [step_of_awake idle awake, State.runBundle, State.settle_of_entered entered]

/-- Settles O53: `dueInterrupt` asks for all three, and `step` asks for it first. -/
theorem interruptsWait : Obligations.InterruptsWait := by
  unfold Obligations.InterruptsWait
  refine ⟨fun s busy => State.dueInterrupt_of_not_interruptible fun ⟨enabled, settled, multiplied⟩ => ?_,
    fun s => step_of_awake, fun s => step_of_asleep⟩
  obtain slot | window | disabled := busy
  · exact slot settled
  · exact window multiplied
  · exact Bool.false_ne_true (disabled.symm.trans enabled)

/-- Exception entry from a state whose pending flags and sleep are changed: they stay so, and the rest is the same. -/
theorem State.takeException_woken {s : State} {n : Fin 32} (ready : s.handlerReady n) (ret pend : Word)
    (sleeping : Bool) : ∃ t, s.enteredHandler t n ret ∧
      ({ s with exc := { s.exc with pend := pend }, sleeping := sleeping } : State).takeException n ret =
        .next { t with exc := { t.exc with pend := pend }, sleeping := sleeping } := by
  obtain ⟨u, entered⟩ := ready
  have saved (p : Word) (sl : Bool) := State.enterBlock_congr (sp := { s.sp with sxb := s.base, sxo := ret - s.base })
    (src := BitVec.ofNat 32 n.val) (p := p) (ls := none) (ee := true) (sl := sl) entered
  obtain ⟨-, z, m, shape, -⟩ :=
    State.takeException_next (State.takeException_of_entered (ret := ret) (saved s.exc.pend s.sleeping))
  refine ⟨_, ⟨z, m, shape⟩, ?_⟩
  exact State.takeException_of_entered
    (s := { s with exc := { s.exc with pend := pend }, sleeping := sleeping }) (saved pend sleeping)

/-- Settles O54: the step is `takeException` from the state with the flag cleared and awake. -/
theorem interruptStep : Obligations.InterruptStep := by
  unfold Obligations.InterruptStep
  intro s i due ready
  obtain ⟨t, handler, taken⟩ := State.takeException_woken ready s.pc
    (s.exc.pend &&& ~~~(1#32 <<< s.cfg.intrBit i.val)) false
  refine ⟨t, handler, ?_⟩
  obtain ⟨z, m, rfl⟩ := handler
  have interrupt : s.takeInterrupt i (s.cfg.intrBit i.val) = _ := taken
  simp only [step, State.act, due, State.enterInterrupt, interrupt]
  rfl

/-! ### Fetches -/

section
variable {s : State} {a : Word}

theorem State.fetchWord_of_leavesBlock {why : Refusal} (h : s.leavesBlock a = some why) :
    s.fetchWord a = .refuse why := by
  rw [State.fetchWord, h]

variable (inside : s.leavesBlock a = none)
include inside

theorem State.fetchWord_of_inside : s.fetchWord a = s.codeWord a := by
  rw [State.fetchWord, inside]

theorem State.fetchWord_of_rom (low : a.toNat < 0x10000) :
    s.fetchWord a = .word (bigWord fun k => s.mem.bootRom.read (a.toNat + k)) := by
  rw [State.fetchWord_of_inside inside, State.codeWord, if_pos low]
  exact congrArg CodeRead.word (readWord_range_four _ _)

theorem State.fetchWord_of_external (high : 0x20000 ≤ a.toNat) : s.fetchWord a = s.externalWord false a := by
  rw [State.fetchWord_of_inside inside, State.codeWord, if_neg (by omega), if_neg (Nat.not_lt.mpr high)]

variable {off : Nat} (address : a.toNat = 0x10000 + off) (low : off < 0x10000)
include address low

theorem State.fetchWord_of_ispm : s.fetchWord a =
    if s.cfg.ispmSize < off + 4 then .refuse .unmappedCode
    else if s.marks.ispmStale.anySet (span off 4) then .refuse .staleCode
    else .word (bigWord fun k => s.mem.ispm.read (off + k)) := by
  have offset : a.toNat - 0x10000 = off := by omega
  have word : s.mem.ispm.readWord (span off 4) = bigWord fun k => s.mem.ispm.read (off + k) := readWord_range_four _ _
  rw [State.fetchWord_of_inside inside, State.codeWord, if_neg (by omega), if_pos (show a.toNat < 0x20000 by omega)]
  simp only [offset, word]

end

theorem Memory.anySet_span_true {m : Memory} {a n k : Nat} (hk : k < n) (set : m.read (a + k) ≠ 0) :
    m.anySet (span a n) = true :=
  List.any_eq_true.mpr ⟨a + k, (mem_span _ _ _).mpr (by omega), bne_iff_ne.mpr set⟩

theorem staleMark_fetch (mark : Byte) : staleMark false mark = true ↔ mark ≠ 0 := by
  simp [staleMark]

/-! ### The bundle of a fetch -/

section
variable {s : State} {w w1 : Word}

theorem State.runEntered_one (fetched : s.fetchWord s.pc = .word w) (short : sizeFlag w = false) :
    s.runEntered = runWords s w none := by
  simp [State.runEntered, fetched, short]

theorem State.runEntered_two (fetched : s.fetchWord s.pc = .word w) (long : sizeFlag w = true)
    (second : s.fetchWord (s.pc + 4) = .word w1) : s.runEntered = runWords s w (some w1) := by
  simp only [State.runEntered, fetched, long, second, if_true]

theorem State.issues_of_decode {i : Instr} {long : Word} (decoded : decode w long = .ok i) (f : Format) :
    s.issues w long f = (i.format == f && s.ps i.guard) := by
  rw [State.issues, decoded]
  rfl

theorem runOne_of_decode {i : Instr} {long : Word} (decoded : decode w long = .ok i) : runOne s w long = exec i s := by
  rw [runOne, decoded]

theorem runWords_long (long : formatOf w = some .aluL) :
    runWords s w (some w1) = (s.begin 8).finish false false (runOne (s.begin 8) w w1) := by
  rw [runWords, if_pos long]

theorem runWords_pair (pair : formatOf w ≠ some .aluL) : runWords s w (some w1) =
    (s.begin 8).finish ((s.begin 8).issues w 0 .ldt) ((s.begin 8).issues w 0 .aluM) (runTwo (s.begin 8) w w1) := by
  rw [runWords, if_neg pair]

theorem runTwo_of_decode {i j : Instr} (dual : s.cfg.dualIssue = true) (first : decode w 0 = .ok i)
    (second : decode w1 0 = .ok j) (allowed : s.cfg.allowsSecond j.format = true) :
    runTwo s w w1 = execPair i j s := by
  simp only [runTwo, dual, (decode_row second).1, allowed, first, second, State.enablesIllegal, Bool.not_true,
    Bool.or_false, Bool.false_eq_true, if_false]

theorem runTwo_of_single (single : s.cfg.dualIssue = false) : runTwo s w w1 = .refused .singleIssue := by
  simp [runTwo, single]

theorem runTwo_of_misplaced (dual : s.cfg.dualIssue = true) {f : Format} (format : formatOf w1 = some f)
    (forbidden : s.cfg.allowsSecond f = false) : runTwo s w w1 = .refused .secondSlotFormat := by
  simp [runTwo, dual, format, forbidden]

end

/-- Settles O56: the fetch by the areas of the code map, the settled block, and the four kinds of bundle. -/
theorem stepRunsDecodedInstruction : Obligations.StepRunsDecodedInstruction := by
  unfold Obligations.StepRunsDecodedInstruction
  refine ⟨fun s a => ⟨fun why => State.fetchWord_of_leavesBlock, fun inside => ⟨State.fetchWord_of_rom inside,
    fun off address low => ?ispm, fun high => ?external⟩⟩, fun s t idle awake unentered entered => ?settles,
    fun s w idle awake entered fetched => ⟨fun i short decoded => ?one, fun v i second decoded format => ?long,
      fun w1 i j second long first other format dual allowed => ?two, fun w1 second long format => ?refused⟩⟩
  case ispm =>
    rw [State.fetchWord_of_ispm inside address low]
    refine ⟨fun small => if_pos small, fun there ⟨k, hk, marked⟩ => ?_, fun there fresh => ?_⟩
    · rw [if_neg (Nat.not_lt.mpr there), if_pos (Memory.anySet_span_true hk marked)]
    · rw [if_neg (Nat.not_lt.mpr there), Memory.anySet_span_false fresh]
      rfl
  case external =>
    rw [State.fetchWord_of_external inside high]
    refine ⟨State.externalWord_of_denied false, fun w translated outside =>
      State.externalWord_of_unmapped false ⟨w, translated, outside⟩, fun pa reached => ?_⟩
    obtain ⟨stale, fresh⟩ := State.externalWord_of_reaches false reached
    refine ⟨fun ⟨k, hk, marked⟩ => stale ⟨k, hk, (staleMark_fetch _).mpr marked⟩, fun clean => fresh fun k hk => ?_⟩
    rw [clean k hk]
    rfl
  case settles =>
    have settled : s.settle = .entered t := by rw [State.settle, if_pos unentered, entered]
    obtain ⟨known, -⟩ := State.settle_entered settled
    refine ⟨known, ?_⟩
    obtain ⟨-, z, m, shape, -⟩ := State.enterBlock_entered entered
    have idle' : t.dueInterrupt = none := by
      rw [shape]
      exact idle
    have awake' : t.sleeping = false := by
      rw [shape]
      exact awake
    rw [step_of_awake idle awake, State.runBundle, settled, step_of_entered idle' awake' known]
  all_goals rw [step_of_entered idle awake entered]
  case one =>
    rw [State.runEntered_one fetched short, runWords, State.issues_of_decode decoded, State.issues_of_decode decoded,
      runOne_of_decode decoded]
    rfl
  case long =>
    have row := (decode_row decoded).1
    have sized := sizeFlag_of_aluL decoded format
    rw [format] at row
    rw [State.runEntered_two fetched (Bool.and_eq_true_iff.mp sized).1 second, runWords_long row,
      runOne_of_decode decoded]
    rfl
  case two =>
    have row : formatOf w ≠ some .aluL := fun aluL => format (Option.some.inj ((decode_row first).1.symm.trans aluL))
    rw [State.runEntered_two fetched long second, runWords_pair row, State.issues_of_decode first,
      State.issues_of_decode first, runTwo_of_decode (s := s.begin 8) dual first other allowed]
    rfl
  case refused =>
    rw [State.runEntered_two fetched long second, runWords_pair format]
    refine ⟨fun single => ?_, fun dual f row forbidden => ?_⟩
    · rw [runTwo_of_single (s := s.begin 8) single]
      rfl
    · rw [runTwo_of_misplaced (s := s.begin 8) dual row forbidden]
      rfl

/-! ### Faults -/

/-- What enters a handler is a trap or an illegal access; everything else leaves the mark of it as it was. -/
theorem Effect.excEntered {i : Instr} {s t : State} (h : Effect i s t) : t.excEntered = s.excEntered ∨
    (∃ g imm, i = .trap g imm) ∨ s.illegalAccess = .next t := by
  cases h with
  | disabled | product | stack | transfer | later => exact .inl rfl
  | register | predicate | special | load => exact .inl (by simp)
  | store _ _ frame =>
    obtain ⟨sc, mem, marks, exc, mmu, io, sl, rfl⟩ := frame.shape
    exact .inl rfl
  | fault _ _ raised => exact .inr (.inr raised)
  | trap g imm _ _ is => exact .inr (.inl ⟨g, imm, is⟩)

theorem joinSecond_excEntered (on : Bool) (j : Instr) (t u : State) :
    (joinSecond on j t u).excEntered = t.excEntered := by
  unfold joinSecond
  split
  · split <;> simp
  · rfl

theorem State.enablesIllegal_iff (s : State) (w long : Word) :
    s.enablesIllegal w (decode w long) = true ↔ illegalWord w ∧ s.ps (guardOf w) = true := by
  refine ⟨fun h => ?_, fun ⟨illegal, on⟩ => State.enablesIllegal_of_illegalWord illegal on long⟩
  cases decoded : decode w long with
  | ok i => simp [State.enablesIllegal, decoded] at h
  | error e =>
    rw [decoded] at h
    exact ⟨(decode_error_iff w long).1 ⟨e, decoded⟩, h⟩

/-- Settles O50: what instructions and pairs of them do when they enter a handler, and the two fetches of a bundle. -/
theorem faultsArePrecise : Obligations.FaultsArePrecise := by
  unfold Obligations.FaultsArePrecise
  refine ⟨fun i s t before ran entered => ?one, fun i j s t ran entered => ?pair, fun s n slot => ?slot,
    fun s n settled ready => ?raise,
    fun s idle awake known => ⟨fun denied => ?first, fun w fetched long denied => ?second⟩⟩
  case one =>
    obtain same | trap | raised := (exec_next ran).excEntered
    · exact absurd (before.symm.trans (same.symm.trans entered)) Bool.false_ne_true
    · exact .inl trap
    · obtain ⟨settled, taken⟩ := State.raise_next raised
      obtain ⟨-, z, m, shape, -⟩ := State.takeException_next taken
      exact .inr ⟨settled, raised, z, m, shape⟩
  case pair =>
    obtain ⟨-, ⟨first, -⟩ | ⟨v, u, -, unentered, -, rfl⟩⟩ := execPair_next ran
    · exact first
    · rw [joinSecond_excEntered, unentered] at entered
      exact absurd entered Bool.false_ne_true
  case slot => exact need_of_false (State.isNone_pending slot) _ _
  case raise =>
    obtain ⟨t, taken, handler⟩ := State.takeException_of_handlerReady ready s.pc
    exact ⟨t, (need_of_true (by rw [settled]; rfl) _ _).trans taken, handler⟩
  case first =>
    rw [step_of_entered idle awake known, State.runEntered, denied]
    rfl
  case second =>
    rw [step_of_entered idle awake known]
    have runs : s.runEntered = s.secondFetchFault w := by
      simp only [State.runEntered, fetched, long, denied, if_true]
    have enables := State.enablesIllegal_iff (s.begin 8) w 0
    rw [runs, State.secondFetchFault]
    refine ⟨fun illegal => ?_, fun legal => ?_⟩
    · rw [if_pos (enables.mpr illegal)]
    · rw [if_neg (mt enables.mp legal)]
      rfl

end Sys2Proof.Machine
end

section
/-! PROOFS. The passing of time: the counters, their armed interrupt times, and what arrives from outside (60_exceptions
R406, R443 to R456). -/
namespace Sys2Proof.Machine

/-! ### Armed times -/

/-- A counter that advances by `c` reaches an armed time just if that is its value 1 to `c` cycles later. -/
theorem fires_iff (old : BitVec 64) (c : Nat) (armed : Option (BitVec 64)) :
    fires old c armed = true ↔ ∃ j, 1 ≤ j ∧ j ≤ c ∧ armed = some (old + BitVec.ofNat 64 j) := by
  cases armed with
  | none => simp [fires]
  | some t =>
    simp only [fires, reaches, decide_eq_true_eq, Option.some.injEq]
    refine ⟨fun within => ⟨_, ?_, within, ?_⟩, fun ⟨j, positive, within, later⟩ => ?_⟩
    · split <;> omega
    · apply BitVec.eq_of_toNat_eq
      rw [BitVec.toNat_add, BitVec.toNat_ofNat, BitVec.toNat_sub]
      split <;> omega
    · have distance : (t - old).toNat = j % 2 ^ 64 := by
        rw [later, BitVec.add_comm, BitVec.add_sub_cancel, BitVec.toNat_ofNat]
      rw [distance]
      split <;> omega

/-! ### Requests -/

theorem State.request_eq (s : State) (i : Nat) (made : Bool) : s.request i made = { s with exc := { s.exc with
    pend := s.exc.pend ||| if made then 1#32 <<< s.cfg.intrBit i else 0#32 } } := by
  cases made with
  | false => simp [State.request]
  | true => rfl

theorem getLsbD_flag (made : Bool) (n : Nat) {k : Nat} (hk : k < 32) :
    (if made then 1#32 <<< n else 0#32).getLsbD k = (made && k == n) := by
  cases made with
  | false => simp
  | true =>
    simp only [if_true, BitVec.getLsbD_shiftLeft, BitVec.getLsbD_one, hk, decide_true, Bool.true_and]
    grind

/-- Time that passes, field by field. -/
theorem State.passTime_eq (s : State) (c : Nat) : s.passTime c = { s with
    exc := { s.exc with pend := s.exc.pend |||
      (if fires s.io.timer.cycles c s.io.timer.cycleTime then 1#32 <<< s.cfg.intrBit 0 else 0#32) |||
      (if fires s.io.timer.usecs (s.io.timer.usecsIn s.cfg.freq c) s.io.timer.usecTime then
        1#32 <<< s.cfg.intrBit 1 else 0#32) }
    io := { s.io with
      timer := s.io.timer.advance s.cfg.freq c
      deadline := s.io.deadline - BitVec.ofNat 32 (min c s.io.deadline.toNat)
      counter := s.io.counter + BitVec.ofNat 32 c } } := by
  rw [State.passTime, State.request_eq, State.request_eq]

theorem State.outsideRequests_eq (s : State) : s.outsideRequests = { s with exc := { s.exc with
    pend := s.exc.pend ||| ((Config.requests s.ticks &&& s.cfg.wired).setWidth 32 <<< s.cfg.intrBit 0) } } := by
  unfold State.outsideRequests
  split
  next unwired => simp [unwired]
  next => rfl

theorem Config.intrBit_eq (c : Config) (i : Nat) : c.intrBit i = c.intrBit 0 + i := by
  unfold Config.intrBit
  split <;> omega

theorem Config.intrBit_zero_le (c : Config) : c.intrBit 0 ≤ 16 := by
  unfold Config.intrBit
  split <;> omega

theorem Config.getLsbD_wired (c : Config) {i : Nat} (hi : i < 16) :
    c.wired.getLsbD i = (c.intrInputs.getLsbD i && decide (2 ≤ i)) := by
  have mask : ∀ i : Fin 16, (0xfffc : BitVec 16).getLsbD i.val = decide (2 ≤ i.val) := by decide
  rw [Config.wired, BitVec.getLsbD_and, mask ⟨i, hi⟩]

/-- The requests from outside, at the bit of each interrupt. -/
theorem getLsbD_outside (c : Config) (requests : BitVec 16) {i : Nat} (hi : i < 16) :
    ((requests &&& c.wired).setWidth 32 <<< c.intrBit 0).getLsbD (c.intrBit i) =
      (decide (2 ≤ i) && c.intrInputs.getLsbD i && requests.getLsbD i) := by
  have low := Config.intrBit_zero_le c
  rw [Config.intrBit_eq c i, BitVec.getLsbD_shiftLeft, BitVec.getLsbD_setWidth, Nat.add_sub_cancel_left,
    BitVec.getLsbD_and, Config.getLsbD_wired c hi, decide_eq_true (by omega : c.intrBit 0 + i < 32),
    decide_eq_true (by omega : i < 32),
    decide_eq_false (by omega : ¬ c.intrBit 0 + i < c.intrBit 0)]
  cases requests.getLsbD i <;> cases c.intrInputs.getLsbD i <;> simp

theorem getLsbD_outside_of_ne (c : Config) (requests : BitVec 16) {k : Nat} (other : ∀ i, i < 16 → k ≠ c.intrBit i) :
    ((requests &&& c.wired).setWidth 32 <<< c.intrBit 0).getLsbD k = false := by
  rw [BitVec.getLsbD_shiftLeft, BitVec.getLsbD_setWidth]
  by_cases below : k < c.intrBit 0
  · simp [below]
  · have beyond : 16 ≤ k - c.intrBit 0 := Nat.le_of_not_lt fun near => by
      refine other (k - c.intrBit 0) (by omega) ?_
      rw [Config.intrBit_eq]
      omega
    simp [BitVec.getLsbD_of_ge _ _ beyond]

/-! ### Arrivals -/

theorem Uart.arrive_eq (u : Uart) (present port : Bool) (tick : Nat) : (if present then u.arrive port tick else u) =
    { u with rx := u.rx ++ (if present then (Config.uartArrival port tick).toList else []) } := by
  cases present with
  | false => simp
  | true =>
    simp only [if_true, Uart.arrive]
    cases Config.uartArrival port tick with
    | none => simp
    | some b => rfl

/-- Settles O55: the passing of time is two requests beside the counters, and the end of a step is what arrives after
it. -/
theorem timePasses : Obligations.TimePasses := by
  unfold Obligations.TimePasses
  refine ⟨fun s c d f0 f1 micros cycles usecs => ?pass, fun s t passed => ?tick⟩
  case pass =>
    obtain rfl : f0 = fires s.io.timer.cycles c s.io.timer.cycleTime :=
      Bool.eq_iff_iff.mpr (cycles.trans (fires_iff _ _ _).symm)
    obtain rfl : f1 = fires s.io.timer.usecs d s.io.timer.usecTime :=
      Bool.eq_iff_iff.mpr (usecs.trans (fires_iff _ _ _).symm)
    subst micros
    refine ⟨_, _, s.passTime_eq c, ?_, fun k hk => ?_⟩
    · have bound := s.io.deadline.isLt
      rw [BitVec.toNat_sub, BitVec.toNat_ofNat]
      omega
    · rw [BitVec.getLsbD_or, BitVec.getLsbD_or, getLsbD_flag _ _ hk, getLsbD_flag _ _ hk]
      rfl
  case tick =>
    have sameCfg : t.cfg = s.cfg := by rw [passed, State.passTime_cfg]
    have sameTicks : t.ticks = s.ticks := by rw [passed, State.passTime_ticks]
    refine ⟨t.exc.pend ||| ((Config.requests t.ticks &&& t.cfg.wired).setWidth 32 <<< t.cfg.intrBit 0), ?_,
      fun i hi => ?_, fun k other => ?_⟩
    · rw [State.tick, ← passed, State.outsideRequests_eq, State.uartArrivals]
      simp only [Uart.arrive_eq, sameCfg, sameTicks]
    · rw [BitVec.getLsbD_or, ← sameCfg, ← sameTicks, getLsbD_outside _ _ hi]
    · rw [BitVec.getLsbD_or, getLsbD_outside_of_ne _ _ (sameCfg.symm ▸ other), Bool.or_false]

end Sys2Proof.Machine
end
